-- ==== Sys2Proof/Word.lean ====
section
/-! DEFINITION. The word types of the i486 (spec/00_scope.md section 5: a byte is 8 bits, a word 16, a doubleword 32). -/

namespace Sys2Proof

/-- A byte, 8 bits. -/
abbrev Byte := BitVec 8

/-- A word, 16 bits: a selector, a port number, a 16-bit offset. -/
abbrev Word := BitVec 16

/-- A doubleword, 32 bits: a general register, EIP, EFLAGS, a linear or a physical address. -/
abbrev Dword := BitVec 32

end Sys2Proof
end

