-- ==== Sys2Proof/Syntax.lean ====
section
/-! DEFINITION. The instructions: one constructor of `Instr` for each row of spec/opcode_table.json, prefix bytes included.
Register numbers and addressing forms are constructors, so that the machine never sees a raw encoding. -/

namespace Sys2Proof

/-- The eight general registers, in the order of their numbers 0 to 7 (R13, R77). -/
inductive Reg where
  | eax | ecx | edx | ebx | esp | ebp | esi | edi
deriving DecidableEq, Repr

/-- The eight 8-bit registers, in the order of their numbers 0 to 7 (R77). -/
inductive Reg8 where
  | al | cl | dl | bl | ah | ch | dh | bh
deriving DecidableEq, Repr

/-- The six segment registers, in the order of their numbers 0 to 5 (R16). -/
inductive SReg where
  | es | cs | ss | ds | fs | gs
deriving DecidableEq, Repr

/-- The register sums of the 16-bit ModRM table, in the order of rm (R76). -/
inductive Base16 where
  | bxsi | bxdi | bpsi | bpdi | si | di | bp | bx
deriving DecidableEq, Repr

/-- The displacement that follows a 16-bit addressing form: mod 00, 01, 10 (R76). -/
inductive Disp16 where
  | none
  | d8 (d : Byte)
  | d16 (d : Word)
deriving DecidableEq, Repr

/-- A 16-bit addressing form (R76). -/
inductive Mem16 where
  /-- mod 00, rm 110: disp16 and no register. -/
  | direct (d : Word)
  /-- a register sum and a displacement. -/
  | based (b : Base16) (d : Disp16)
deriving DecidableEq, Repr

/-- The displacement that follows a 32-bit addressing form: mod 00, 01, 10 (R78). -/
inductive Disp32 where
  | none
  | d8 (d : Byte)
  | d32 (d : Dword)
deriving DecidableEq, Repr

/-- A 32-bit addressing form, with the address-size prefix byte (R78). -/
inductive Mem32 where
  /-- mod 00, rm 101: disp32 alone. -/
  | direct (d : Dword)
  /-- a base register and a displacement, without a SIB byte. -/
  | based (b : Reg) (d : Disp32)
  /-- a SIB byte: base, index shifted left by `scale`, displacement; index 100 (`esp`) means no index. -/
  | sib (scale : BitVec 2) (index base : Reg) (d : Disp32)
  /-- a SIB byte with base 101 and mod 00: disp32 and no base. -/
  | sibDisp (scale : BitVec 2) (index : Reg) (d : Dword)
deriving DecidableEq, Repr

/-- A memory operand of a ModRM byte, in the addressing form of the address size (R73). -/
inductive MemRef where
  | a16 (m : Mem16)
  | a32 (m : Mem32)
deriving DecidableEq, Repr

/-- The r/m operand of a ModRM byte: a register (mod 11) or memory (R76). -/
inductive Rm (ρ : Type) where
  | reg (r : ρ)
  | mem (m : MemRef)
deriving DecidableEq, Repr

/-- The instructions of spec/opcode_table.json, one constructor per row, in the table's order. The operand size W (16 or
32) and the segment used are not in the term: they come from the prefix bytes executed before it (R72, R74). -/
inductive Instr where
  -- IOPL-sensitive instructions (spec/40_sensitive.md)
  /-- FA, R101. -/
  | cli
  /-- FB, R102. -/
  | sti
  /-- 9C, R103. -/
  | pushf
  /-- 9D, R104. -/
  | popf
  /-- CD ib, R105: the vector. -/
  | intN (vector : Byte)
  /-- CF, R106 to R108, R111. -/
  | iret
  -- I/O instructions (spec/41_io.md)
  /-- E4 ib, R121. -/
  | inAlImm (port : Byte)
  /-- E5 ib, R122. -/
  | inAxImm (port : Byte)
  /-- EC, R123. -/
  | inAlDx
  /-- ED, R124. -/
  | inAxDx
  /-- E6 ib, R125. -/
  | outImmAl (port : Byte)
  /-- E7 ib, R126. -/
  | outImmAx (port : Byte)
  /-- EE, R127. -/
  | outDxAl
  /-- EF, R128. -/
  | outDxAx
  /-- 6C, R129. -/
  | insb
  /-- 6D, R130. -/
  | insw
  /-- 6E, R131. -/
  | outsb
  /-- 6F, R132. -/
  | outsw
  -- privileged instructions (spec/42_privileged.md)
  /-- 0F 01 /3, R141. -/
  | lidt (src : MemRef)
  /-- 0F 01 /2, R142. -/
  | lgdt (src : MemRef)
  /-- 0F 01 /6, R143. -/
  | lmsw (src : Rm Reg)
  /-- 0F 20 /r, R144: the control register's number (reg field) and the general register (rm). -/
  | movFromCr (cr : BitVec 3) (dst : Reg)
  /-- 0F 22 /r, R145. -/
  | movToCr (cr : BitVec 3) (src : Reg)
  /-- 0F 06, R146. -/
  | clts
  /-- F4, R147. -/
  | hlt
  /-- 0F 08, R148. -/
  | invd
  /-- 0F 09, R149. -/
  | wbinvd
  /-- 0F 01 /7, R150. -/
  | invlpg (src : MemRef)
  /-- 0F 21 /r, R151: the debug register's number and the general register. -/
  | movFromDr (dr : BitVec 3) (dst : Reg)
  /-- 0F 23 /r, R152. -/
  | movToDr (dr : BitVec 3) (src : Reg)
  /-- 0F 24 /r, R153: the test register's number and the general register. -/
  | movFromTr (tr : BitVec 3) (dst : Reg)
  /-- 0F 26 /r, R154. -/
  | movToTr (tr : BitVec 3) (src : Reg)
  -- stack and data instructions (spec/43_compat_stack_data.md)
  /-- 50+r, R160. -/
  | push (src : Reg)
  /-- 8B /r, R161. -/
  | movRRm (dst : Reg) (src : Rm Reg)
  /-- 89 /r, R162. -/
  | movRmR (dst : Rm Reg) (src : Reg)
  /-- 87 /r, R163. -/
  | xchg (dst : Rm Reg) (src : Reg)
  /-- 8E /r, R164: the segment register's number as the reg field holds it; 1, 6 and 7 raise #UD. -/
  | movSregRm (sreg : BitVec 3) (src : Rm Reg)
  /-- 8C /r, R165: the segment register's number as the reg field holds it; 6 and 7 raise #UD. -/
  | movRmSreg (dst : Rm Reg) (sreg : BitVec 3)
  -- divide (spec/44_compat_divide_shift.md section 1)
  /-- F6 /6, R171. -/
  | div8 (src : Rm Reg8)
  /-- F7 /6, R172. -/
  | divW (src : Rm Reg)
  /-- F6 /7, R173. -/
  | idiv8 (src : Rm Reg8)
  /-- F7 /7, R174. -/
  | idivW (src : Rm Reg)
  -- shift and rotate (spec/44_compat_divide_shift.md section 2)
  /-- D0 /0, ROL r/m8, 1, R176. -/
  | rol8One (dst : Rm Reg8)
  /-- D1 /0, ROL r/m16/32, 1, R176. -/
  | rolWOne (dst : Rm Reg)
  /-- D2 /0, ROL r/m8, CL, R176. -/
  | rol8Cl (dst : Rm Reg8)
  /-- D3 /0, ROL r/m16/32, CL, R176. -/
  | rolWCl (dst : Rm Reg)
  /-- C0 /0 ib, ROL r/m8, imm8, R176. -/
  | rol8Imm (dst : Rm Reg8) (count : Byte)
  /-- C1 /0 ib, ROL r/m16/32, imm8, R176. -/
  | rolWImm (dst : Rm Reg) (count : Byte)
  /-- D0 /1, ROR r/m8, 1, R177. -/
  | ror8One (dst : Rm Reg8)
  /-- D1 /1, ROR r/m16/32, 1, R177. -/
  | rorWOne (dst : Rm Reg)
  /-- D2 /1, ROR r/m8, CL, R177. -/
  | ror8Cl (dst : Rm Reg8)
  /-- D3 /1, ROR r/m16/32, CL, R177. -/
  | rorWCl (dst : Rm Reg)
  /-- C0 /1 ib, ROR r/m8, imm8, R177. -/
  | ror8Imm (dst : Rm Reg8) (count : Byte)
  /-- C1 /1 ib, ROR r/m16/32, imm8, R177. -/
  | rorWImm (dst : Rm Reg) (count : Byte)
  /-- D0 /2, RCL r/m8, 1, R178. -/
  | rcl8One (dst : Rm Reg8)
  /-- D1 /2, RCL r/m16/32, 1, R178. -/
  | rclWOne (dst : Rm Reg)
  /-- D2 /2, RCL r/m8, CL, R178. -/
  | rcl8Cl (dst : Rm Reg8)
  /-- D3 /2, RCL r/m16/32, CL, R178. -/
  | rclWCl (dst : Rm Reg)
  /-- C0 /2 ib, RCL r/m8, imm8, R178. -/
  | rcl8Imm (dst : Rm Reg8) (count : Byte)
  /-- C1 /2 ib, RCL r/m16/32, imm8, R178. -/
  | rclWImm (dst : Rm Reg) (count : Byte)
  /-- D0 /3, RCR r/m8, 1, R179. -/
  | rcr8One (dst : Rm Reg8)
  /-- D1 /3, RCR r/m16/32, 1, R179. -/
  | rcrWOne (dst : Rm Reg)
  /-- D2 /3, RCR r/m8, CL, R179. -/
  | rcr8Cl (dst : Rm Reg8)
  /-- D3 /3, RCR r/m16/32, CL, R179. -/
  | rcrWCl (dst : Rm Reg)
  /-- C0 /3 ib, RCR r/m8, imm8, R179. -/
  | rcr8Imm (dst : Rm Reg8) (count : Byte)
  /-- C1 /3 ib, RCR r/m16/32, imm8, R179. -/
  | rcrWImm (dst : Rm Reg) (count : Byte)
  /-- D0 /4, SHL r/m8, 1, R180. -/
  | shl8One (dst : Rm Reg8)
  /-- D1 /4, SHL r/m16/32, 1, R180. -/
  | shlWOne (dst : Rm Reg)
  /-- D2 /4, SHL r/m8, CL, R180. -/
  | shl8Cl (dst : Rm Reg8)
  /-- D3 /4, SHL r/m16/32, CL, R180. -/
  | shlWCl (dst : Rm Reg)
  /-- C0 /4 ib, SHL r/m8, imm8, R180. -/
  | shl8Imm (dst : Rm Reg8) (count : Byte)
  /-- C1 /4 ib, SHL r/m16/32, imm8, R180. -/
  | shlWImm (dst : Rm Reg) (count : Byte)
  /-- D0 /5, SHR r/m8, 1, R181. -/
  | shr8One (dst : Rm Reg8)
  /-- D1 /5, SHR r/m16/32, 1, R181. -/
  | shrWOne (dst : Rm Reg)
  /-- D2 /5, SHR r/m8, CL, R181. -/
  | shr8Cl (dst : Rm Reg8)
  /-- D3 /5, SHR r/m16/32, CL, R181. -/
  | shrWCl (dst : Rm Reg)
  /-- C0 /5 ib, SHR r/m8, imm8, R181. -/
  | shr8Imm (dst : Rm Reg8) (count : Byte)
  /-- C1 /5 ib, SHR r/m16/32, imm8, R181. -/
  | shrWImm (dst : Rm Reg) (count : Byte)
  /-- D0 /7, SAR r/m8, 1, R182. -/
  | sar8One (dst : Rm Reg8)
  /-- D1 /7, SAR r/m16/32, 1, R182. -/
  | sarWOne (dst : Rm Reg)
  /-- D2 /7, SAR r/m8, CL, R182. -/
  | sar8Cl (dst : Rm Reg8)
  /-- D3 /7, SAR r/m16/32, CL, R182. -/
  | sarWCl (dst : Rm Reg)
  /-- C0 /7 ib, SAR r/m8, imm8, R182. -/
  | sar8Imm (dst : Rm Reg8) (count : Byte)
  /-- C1 /7 ib, SAR r/m16/32, imm8, R182. -/
  | sarWImm (dst : Rm Reg) (count : Byte)
  -- prefix bytes (R71): each is executed as an instruction of one byte that records itself (log 1)
  /-- 66, R72. -/
  | opSizePfx
  /-- 67, R73. -/
  | addrSizePfx
  /-- 26, R74. -/
  | esPfx
  /-- 2E, R74. -/
  | csPfx
  /-- 36, R74. -/
  | ssPfx
  /-- 3E, R74. -/
  | dsPfx
  /-- 64, R74. -/
  | fsPfx
  /-- 65, R74. -/
  | gsPfx
  /-- F0, R75, R190. -/
  | lockPfx
  /-- F2, R133. -/
  | repnePfx
  /-- F3, R133. -/
  | repPfx
deriving DecidableEq, Repr

end Sys2Proof
end

