-- ==== Sys2Proof/WellFormed.lean ====
section
/-! DEFINITION. The well-formedness of an instruction term: exactly the addressing forms that have an encoding
(spec/30_encoding.md R76, R78). -/

namespace Sys2Proof

/-- R76: `[BP]` has no mod 00 form, since that encoding is disp16 alone. -/
def Mem16.wf : Mem16 → Bool
  | .based .bp .none => false
  | _ => true

/-- R78: rm 100 means that a SIB byte follows, so ESP is a base only in a SIB form; EBP as a base has no mod 00 form. -/
def Mem32.wf : Mem32 → Bool
  | .based .esp _ => false
  | .based .ebp .none => false
  | .sib _ _ .ebp .none => false
  | _ => true

/-- The memory operand has an encoding. -/
def MemRef.wf : MemRef → Bool
  | .a16 m => m.wf
  | .a32 m => m.wf

/-- The r/m operand has an encoding. -/
def Rm.wf {ρ : Type} : Rm ρ → Bool
  | .reg _ => true
  | .mem m => m.wf

/-- The memory operand of an r/m operand, if it is one. -/
def Rm.mem? {ρ : Type} : Rm ρ → Option MemRef
  | .reg _ => none
  | .mem m => some m

/-- Whether an r/m operand is memory (mod is not 3). -/
def Rm.isMem {ρ : Type} : Rm ρ → Bool
  | .reg _ => false
  | .mem _ => true

/-- The memory operand that an instruction's ModRM byte names, if any. -/
def Instr.mem? : Instr → Option MemRef
  | .lidt m | .lgdt m | .invlpg m => some m
  | .lmsw d | .movRRm _ d | .movRmR d _ | .xchg d _ | .movSregRm _ d | .movRmSreg d _ => d.mem?
  | .div8 d | .idiv8 d => d.mem?
  | .divW d | .idivW d => d.mem?
  | .rol8One d | .rol8Cl d | .rol8Imm d _ | .ror8One d | .ror8Cl d | .ror8Imm d _ => d.mem?
  | .rcl8One d | .rcl8Cl d | .rcl8Imm d _ | .rcr8One d | .rcr8Cl d | .rcr8Imm d _ => d.mem?
  | .shl8One d | .shl8Cl d | .shl8Imm d _ | .shr8One d | .shr8Cl d | .shr8Imm d _ => d.mem?
  | .sar8One d | .sar8Cl d | .sar8Imm d _ => d.mem?
  | .rolWOne d | .rolWCl d | .rolWImm d _ | .rorWOne d | .rorWCl d | .rorWImm d _ => d.mem?
  | .rclWOne d | .rclWCl d | .rclWImm d _ | .rcrWOne d | .rcrWCl d | .rcrWImm d _ => d.mem?
  | .shlWOne d | .shlWCl d | .shlWImm d _ | .shrWOne d | .shrWCl d | .shrWImm d _ => d.mem?
  | .sarWOne d | .sarWCl d | .sarWImm d _ => d.mem?
  | .cli | .sti | .pushf | .popf | .intN _ | .iret => none
  | .inAlImm _ | .inAxImm _ | .inAlDx | .inAxDx | .outImmAl _ | .outImmAx _ | .outDxAl | .outDxAx => none
  | .insb | .insw | .outsb | .outsw => none
  | .movFromCr _ _ | .movToCr _ _ | .clts | .hlt | .invd | .wbinvd => none
  | .movFromDr _ _ | .movToDr _ _ | .movFromTr _ _ | .movToTr _ _ => none
  | .push _ => none
  | .opSizePfx | .addrSizePfx | .esPfx | .csPfx | .ssPfx | .dsPfx | .fsPfx | .gsPfx => none
  | .lockPfx | .repnePfx | .repPfx => none

/-- The term stands for an instruction that has an encoding. -/
def Instr.wf (i : Instr) : Bool :=
  match i.mem? with
  | some m => m.wf
  | none => true

/-- The address size that an instruction's memory operand needs: 32-bit forms are decoded with 32-bit addressing only, the
16-bit forms with 16-bit addressing only (R73); any other instruction decodes alike under both. -/
def Instr.fitsAddressSize (i : Instr) (a32 : Bool) : Bool :=
  match i.mem? with
  | some (.a16 _) => !a32
  | some (.a32 _) => a32
  | none => true

end Sys2Proof
end

