-- ==== Sys2Proof/Decode.lean ====
section
/-! DEFINITION. The decoder, total on any bytes, and the encoder (spec/30_encoding.md). A prefix byte decodes to an
instruction of its own (log 1), so the decoder reads one prefix byte or one instruction without prefix bytes. It is told the
address size, which the prefix bytes before it decide (R73, R84 step 3). -/

namespace Sys2Proof

/-- The number of a general register (R77). -/
def Reg.num : Reg → BitVec 3
  | .eax => 0 | .ecx => 1 | .edx => 2 | .ebx => 3 | .esp => 4 | .ebp => 5 | .esi => 6 | .edi => 7

/-- The general register of a number (R77). -/
def Reg.ofNum (n : BitVec 3) : Reg :=
  if n = 0 then .eax else if n = 1 then .ecx else if n = 2 then .edx else if n = 3 then .ebx
  else if n = 4 then .esp else if n = 5 then .ebp else if n = 6 then .esi else .edi

/-- The number of an 8-bit register (R77). -/
def Reg8.num : Reg8 → BitVec 3
  | .al => 0 | .cl => 1 | .dl => 2 | .bl => 3 | .ah => 4 | .ch => 5 | .dh => 6 | .bh => 7

/-- The 8-bit register of a number (R77). -/
def Reg8.ofNum (n : BitVec 3) : Reg8 :=
  if n = 0 then .al else if n = 1 then .cl else if n = 2 then .dl else if n = 3 then .bl
  else if n = 4 then .ah else if n = 5 then .ch else if n = 6 then .dh else .bh

/-- The segment register of a number, none for 6 and 7 (R16, R77). -/
def SReg.ofNum (n : BitVec 3) : Option SReg :=
  if n = 0 then some .es else if n = 1 then some .cs else if n = 2 then some .ss else if n = 3 then some .ds
  else if n = 4 then some .fs else if n = 5 then some .gs else none

/-- The rm field of a register sum (R76). -/
def Base16.num : Base16 → BitVec 3
  | .bxsi => 0 | .bxdi => 1 | .bpsi => 2 | .bpdi => 3 | .si => 4 | .di => 5 | .bp => 6 | .bx => 7

/-- The register sum of an rm field (R76). -/
def Base16.ofNum (n : BitVec 3) : Base16 :=
  if n = 0 then .bxsi else if n = 1 then .bxdi else if n = 2 then .bpsi else if n = 3 then .bpdi
  else if n = 4 then .si else if n = 5 then .di else if n = 6 then .bp else .bx

/-- A word from its bytes, low byte first (R55, R79). -/
def take16 : List Byte → Option Word
  | b0 :: b1 :: _ => some (b1 ++ b0)
  | _ => none

/-- A doubleword from its bytes, low byte first (R55, R79). -/
def take32 : List Byte → Option Dword
  | b0 :: b1 :: b2 :: b3 :: _ => some (b3 ++ b2 ++ b1 ++ b0)
  | _ => none

/-- The bytes of a word, low byte first. -/
def bytes16 (w : Word) : List Byte := [w.extractLsb' 0 8, w.extractLsb' 8 8]

/-- The bytes of a doubleword, low byte first. -/
def bytes32 (d : Dword) : List Byte :=
  [d.extractLsb' 0 8, d.extractLsb' 8 8, d.extractLsb' 16 8, d.extractLsb' 24 8]

/-- A ModRM or a SIB byte from its three fields, bits 7:6, 5:3 and 2:0 (R76, R78). -/
def packByte (hi : BitVec 2) (mid lo : BitVec 3) : Byte := hi ++ mid ++ lo

/-- Bits 7:6 of a ModRM or SIB byte. -/
def modField (m : Byte) : BitVec 2 := m.extractLsb' 6 2

/-- Bits 5:3 of a ModRM or SIB byte. -/
def regField (m : Byte) : BitVec 3 := m.extractLsb' 3 3

/-- Bits 2:0 of a ModRM or SIB byte. -/
def rmField (m : Byte) : BitVec 3 := m.extractLsb' 0 3

/-- The memory operand of a ModRM byte with mod not 3 in 16-bit addressing, and how many bytes follow the ModRM byte; none
when there are too few bytes (R76). -/
def parseMem16 (md : BitVec 2) (rm : BitVec 3) (r : List Byte) : Option (Mem16 × Nat) :=
  if md = 0 then
    if rm = 6 then (take16 r).map fun d => (.direct d, 2)
    else some (.based (Base16.ofNum rm) .none, 0)
  else if md = 1 then
    match r with
    | [] => none
    | d :: _ => some (.based (Base16.ofNum rm) (.d8 d), 1)
  else (take16 r).map fun d => (.based (Base16.ofNum rm) (.d16 d), 2)

/-- The displacement that mod calls for in 32-bit addressing, and its length; none when there are too few bytes (R78). -/
def parseDisp32 (md : BitVec 2) (r : List Byte) : Option (Disp32 × Nat) :=
  if md = 0 then some (.none, 0)
  else if md = 1 then
    match r with
    | [] => none
    | d :: _ => some (.d8 d, 1)
  else (take32 r).map fun d => (.d32 d, 4)

/-- The memory operand of a ModRM byte with mod not 3 in 32-bit addressing, and how many bytes follow the ModRM byte; none
when there are too few bytes (R78). -/
def parseMem32 (md : BitVec 2) (rm : BitVec 3) (r : List Byte) : Option (Mem32 × Nat) :=
  if rm = 4 then
    match r with
    | [] => none
    | s :: r' =>
      if md = 0 ∧ rmField s = 5 then
        (take32 r').map fun d => (.sibDisp (modField s) (Reg.ofNum (regField s)) d, 5)
      else
        (parseDisp32 md r').map fun d =>
          (.sib (modField s) (Reg.ofNum (regField s)) (Reg.ofNum (rmField s)) d.1, 1 + d.2)
  else if md = 0 ∧ rm = 5 then (take32 r).map fun d => (.direct d, 4)
  else (parseDisp32 md r).map fun d => (.based (Reg.ofNum rm) d.1, d.2)

/-- The memory operand of a ModRM byte with mod not 3 under an address size. -/
def parseMem (a32 : Bool) (md : BitVec 2) (rm : BitVec 3) (r : List Byte) : Option (MemRef × Nat) :=
  if a32 then (parseMem32 md rm r).map fun m => (.a32 m.1, m.2)
  else (parseMem16 md rm r).map fun m => (.a16 m.1, m.2)

/-- The r/m operand of a ModRM byte, a register by its number (mod 11) or memory, and how many bytes follow the byte. -/
def parseRm (a32 : Bool) (m : Byte) (r : List Byte) : Option (Rm (BitVec 3) × Nat) :=
  if modField m = 3 then some (.reg (rmField m), 0)
  else (parseMem a32 (modField m) (rmField m) r).map fun x => (.mem x.1, x.2)

/-- What the decoder answers. -/
inductive Decoded where
  /-- an instruction of the opcode table and its length in bytes. -/
  | ok (i : Instr) (len : Nat)
  /-- the bytes given end before the instruction does. -/
  | more
  /-- an instruction that V86 mode and real-address mode do not support: #UD (R81). -/
  | unsupported
  /-- no rule gives this opcode a meaning (D19); whether a LOCK prefix byte before it is legal (R190). -/
  | noRule (lockable : Bool)
  /-- an ESC instruction with its ModRM byte, or WAIT (R86, R193). -/
  | escOrWait
deriving DecidableEq, Repr

/-- What a ModRM byte's reg field and operand make of an opcode. -/
inductive Group where
  | done (i : Instr)
  | doneImm (f : Byte → Instr)
  | unsupported
  | noRule (lockable : Bool)
  | escOrWait

/-- What follows an opcode byte. -/
inductive Form where
  | bare (i : Instr)
  | imm (f : Byte → Instr)
  /-- a ModRM byte whose r/m operand may be memory. -/
  | modRm (g : BitVec 3 → Rm (BitVec 3) → Group)
  /-- a ModRM byte whose two register numbers alone count: the MOV forms of special registers. A SIB byte and a displacement
  that mod calls for are read (R84), and have no effect (log 35). -/
  | modReg (f : BitVec 3 → BitVec 3 → Instr)
  | noRule
  | escOrWait

/-- The operand as an 8-bit operand. -/
def Rm.as8 : Rm (BitVec 3) → Rm Reg8
  | .reg n => .reg (Reg8.ofNum n)
  | .mem m => .mem m

/-- The operand as a 16- or 32-bit operand. -/
def Rm.asW : Rm (BitVec 3) → Rm Reg
  | .reg n => .reg (Reg.ofNum n)
  | .mem m => .mem m

/-- An operand that must be memory; a register there is an encoding with no rule (D19). -/
def memOnly (x : Rm (BitVec 3)) (f : MemRef → Instr) : Group :=
  match x with
  | .mem m => .done (f m)
  | .reg _ => .noRule false

/-- The group 0F 01: /2 LGDT, /3 LIDT, /6 LMSW, /7 INVLPG. -/
def group0F01 (reg : BitVec 3) (x : Rm (BitVec 3)) : Group :=
  if reg = 2 then memOnly x .lgdt
  else if reg = 3 then memOnly x .lidt
  else if reg = 6 then .done (.lmsw x.asW)
  else if reg = 7 then memOnly x .invlpg
  else .noRule false

/-- The group 0F 00: LLDT, SLDT, LTR, STR, VERR, VERW are not supported (R81). -/
def group0F00 (reg : BitVec 3) (_ : Rm (BitVec 3)) : Group :=
  if reg = 6 ∨ reg = 7 then .noRule false else .unsupported

/-- The group F6: /6 DIV, /7 IDIV; /2 NOT and /3 NEG are lockable and have no rule (R190). -/
def groupF6 (reg : BitVec 3) (x : Rm (BitVec 3)) : Group :=
  if reg = 6 then .done (.div8 x.as8)
  else if reg = 7 then .done (.idiv8 x.as8)
  else .noRule (x.isMem && (reg == 2 || reg == 3))

/-- The group F7, as F6. -/
def groupF7 (reg : BitVec 3) (x : Rm (BitVec 3)) : Group :=
  if reg = 6 then .done (.divW x.asW)
  else if reg = 7 then .done (.idivW x.asW)
  else .noRule (x.isMem && (reg == 2 || reg == 3))

/-- An opcode with a ModRM byte, without a rule, lockable with a memory operand (R190). -/
def lockableRow (_ : BitVec 3) (x : Rm (BitVec 3)) : Group := .noRule x.isMem

/-- The group 80, 81, 83: ADD, OR, ADC, SBB, AND, SUB, XOR are lockable, /7 is not (R190). -/
def group80 (reg : BitVec 3) (x : Rm (BitVec 3)) : Group := .noRule (x.isMem && reg != 7)

/-- The groups FE and FF: /0 INC and /1 DEC are lockable (R190). -/
def groupFE (reg : BitVec 3) (x : Rm (BitVec 3)) : Group := .noRule (x.isMem && (reg == 0 || reg == 1))

/-- The group 0F BA: /5 BTS, /6 BTR, /7 BTC are lockable (R190). -/
def group0FBA (reg : BitVec 3) (x : Rm (BitVec 3)) : Group :=
  .noRule (x.isMem && (reg == 5 || reg == 6 || reg == 7))

/-- The shift group D0 (R183); /6 has no mnemonic and no rule (D19). -/
def groupD0 (reg : BitVec 3) (x : Rm (BitVec 3)) : Group :=
  if reg = 0 then .done (.rol8One x.as8)
  else if reg = 1 then .done (.ror8One x.as8)
  else if reg = 2 then .done (.rcl8One x.as8)
  else if reg = 3 then .done (.rcr8One x.as8)
  else if reg = 4 then .done (.shl8One x.as8)
  else if reg = 5 then .done (.shr8One x.as8)
  else if reg = 7 then .done (.sar8One x.as8)
  else .noRule false

/-- The shift group D1 (R183); /6 has no mnemonic and no rule (D19). -/
def groupD1 (reg : BitVec 3) (x : Rm (BitVec 3)) : Group :=
  if reg = 0 then .done (.rolWOne x.asW)
  else if reg = 1 then .done (.rorWOne x.asW)
  else if reg = 2 then .done (.rclWOne x.asW)
  else if reg = 3 then .done (.rcrWOne x.asW)
  else if reg = 4 then .done (.shlWOne x.asW)
  else if reg = 5 then .done (.shrWOne x.asW)
  else if reg = 7 then .done (.sarWOne x.asW)
  else .noRule false

/-- The shift group D2 (R183); /6 has no mnemonic and no rule (D19). -/
def groupD2 (reg : BitVec 3) (x : Rm (BitVec 3)) : Group :=
  if reg = 0 then .done (.rol8Cl x.as8)
  else if reg = 1 then .done (.ror8Cl x.as8)
  else if reg = 2 then .done (.rcl8Cl x.as8)
  else if reg = 3 then .done (.rcr8Cl x.as8)
  else if reg = 4 then .done (.shl8Cl x.as8)
  else if reg = 5 then .done (.shr8Cl x.as8)
  else if reg = 7 then .done (.sar8Cl x.as8)
  else .noRule false

/-- The shift group D3 (R183); /6 has no mnemonic and no rule (D19). -/
def groupD3 (reg : BitVec 3) (x : Rm (BitVec 3)) : Group :=
  if reg = 0 then .done (.rolWCl x.asW)
  else if reg = 1 then .done (.rorWCl x.asW)
  else if reg = 2 then .done (.rclWCl x.asW)
  else if reg = 3 then .done (.rcrWCl x.asW)
  else if reg = 4 then .done (.shlWCl x.asW)
  else if reg = 5 then .done (.shrWCl x.asW)
  else if reg = 7 then .done (.sarWCl x.asW)
  else .noRule false

/-- The shift group C0 (R183); /6 has no mnemonic and no rule (D19). -/
def groupC0 (reg : BitVec 3) (x : Rm (BitVec 3)) : Group :=
  if reg = 0 then .doneImm (.rol8Imm x.as8)
  else if reg = 1 then .doneImm (.ror8Imm x.as8)
  else if reg = 2 then .doneImm (.rcl8Imm x.as8)
  else if reg = 3 then .doneImm (.rcr8Imm x.as8)
  else if reg = 4 then .doneImm (.shl8Imm x.as8)
  else if reg = 5 then .doneImm (.shr8Imm x.as8)
  else if reg = 7 then .doneImm (.sar8Imm x.as8)
  else .noRule false

/-- The shift group C1 (R183); /6 has no mnemonic and no rule (D19). -/
def groupC1 (reg : BitVec 3) (x : Rm (BitVec 3)) : Group :=
  if reg = 0 then .doneImm (.rolWImm x.asW)
  else if reg = 1 then .doneImm (.rorWImm x.asW)
  else if reg = 2 then .doneImm (.rclWImm x.asW)
  else if reg = 3 then .doneImm (.rcrWImm x.asW)
  else if reg = 4 then .doneImm (.shlWImm x.asW)
  else if reg = 5 then .doneImm (.shrWImm x.asW)
  else if reg = 7 then .doneImm (.sarWImm x.asW)
  else .noRule false

/-- The one-byte opcodes outside the opcode table: 63 ARPL, with the ModRM byte of the family (PRESUMED, log 52), is not supported
(R81); D8 to DF with a ModRM byte are ESC (R86) and
9B is WAIT (log 30); the lockable ones need their ModRM byte (R190); the rest have no rule (D19). -/
def form1Other (b : Byte) : Form :=
  if b = 0x63 then .modRm fun _ _ => .unsupported
  else if b &&& 0xF8 = 0xD8 then .modRm fun _ _ => .escOrWait
  else if b = 0x9B then .escOrWait
  else if b = 0x00 ∨ b = 0x01 ∨ b = 0x08 ∨ b = 0x09 ∨ b = 0x10 ∨ b = 0x11 ∨ b = 0x18 ∨ b = 0x19 ∨
      b = 0x20 ∨ b = 0x21 ∨ b = 0x28 ∨ b = 0x29 ∨ b = 0x30 ∨ b = 0x31 ∨ b = 0x86 then .modRm lockableRow
  else if b = 0x80 ∨ b = 0x81 ∨ b = 0x83 then .modRm group80
  else if b = 0xFE ∨ b = 0xFF then .modRm groupFE
  else .noRule

/-- The one-byte opcodes: the rows of the opcode table, prefix bytes among them (R71, R83), then the others. -/
def form1 (b : Byte) : Form :=
  if b = 0xFA then .bare .cli
  else if b = 0xFB then .bare .sti
  else if b = 0x9C then .bare .pushf
  else if b = 0x9D then .bare .popf
  else if b = 0xCD then .imm .intN
  else if b = 0xCF then .bare .iret
  else if b = 0xE4 then .imm .inAlImm
  else if b = 0xE5 then .imm .inAxImm
  else if b = 0xEC then .bare .inAlDx
  else if b = 0xED then .bare .inAxDx
  else if b = 0xE6 then .imm .outImmAl
  else if b = 0xE7 then .imm .outImmAx
  else if b = 0xEE then .bare .outDxAl
  else if b = 0xEF then .bare .outDxAx
  else if b = 0x6C then .bare .insb
  else if b = 0x6D then .bare .insw
  else if b = 0x6E then .bare .outsb
  else if b = 0x6F then .bare .outsw
  else if b = 0xF4 then .bare .hlt
  else if b = 0x50 then .bare (.push .eax)
  else if b = 0x51 then .bare (.push .ecx)
  else if b = 0x52 then .bare (.push .edx)
  else if b = 0x53 then .bare (.push .ebx)
  else if b = 0x54 then .bare (.push .esp)
  else if b = 0x55 then .bare (.push .ebp)
  else if b = 0x56 then .bare (.push .esi)
  else if b = 0x57 then .bare (.push .edi)
  else if b = 0x8B then .modRm fun reg x => .done (.movRRm (Reg.ofNum reg) x.asW)
  else if b = 0x89 then .modRm fun reg x => .done (.movRmR x.asW (Reg.ofNum reg))
  else if b = 0x87 then .modRm fun reg x => .done (.xchg x.asW (Reg.ofNum reg))
  else if b = 0x8E then .modRm fun reg x => .done (.movSregRm reg x.asW)
  else if b = 0x8C then .modRm fun reg x => .done (.movRmSreg x.asW reg)
  else if b = 0xF6 then .modRm groupF6
  else if b = 0xF7 then .modRm groupF7
  else if b = 0xD0 then .modRm groupD0
  else if b = 0xD1 then .modRm groupD1
  else if b = 0xD2 then .modRm groupD2
  else if b = 0xD3 then .modRm groupD3
  else if b = 0xC0 then .modRm groupC0
  else if b = 0xC1 then .modRm groupC1
  else if b = 0x66 then .bare .opSizePfx
  else if b = 0x67 then .bare .addrSizePfx
  else if b = 0x26 then .bare .esPfx
  else if b = 0x2E then .bare .csPfx
  else if b = 0x36 then .bare .ssPfx
  else if b = 0x3E then .bare .dsPfx
  else if b = 0x64 then .bare .fsPfx
  else if b = 0x65 then .bare .gsPfx
  else if b = 0xF0 then .bare .lockPfx
  else if b = 0xF2 then .bare .repnePfx
  else if b = 0xF3 then .bare .repPfx
  else form1Other b

/-- The opcodes after the byte 0F: the rows of the opcode table, the instructions of R81 (LAR and LSL are 02 and
03, with the ModRM byte of the family, PRESUMED, log 52), the lockable ones (R190); the rest have no rule (D19). -/
def form2 (b : Byte) : Form :=
  if b = 0x01 then .modRm group0F01
  else if b = 0x06 then .bare .clts
  else if b = 0x08 then .bare .invd
  else if b = 0x09 then .bare .wbinvd
  else if b = 0x20 then .modReg fun reg rm => .movFromCr reg (Reg.ofNum rm)
  else if b = 0x22 then .modReg fun reg rm => .movToCr reg (Reg.ofNum rm)
  else if b = 0x21 then .modReg fun reg rm => .movFromDr reg (Reg.ofNum rm)
  else if b = 0x23 then .modReg fun reg rm => .movToDr reg (Reg.ofNum rm)
  else if b = 0x24 then .modReg fun reg rm => .movFromTr reg (Reg.ofNum rm)
  else if b = 0x26 then .modReg fun reg rm => .movToTr reg (Reg.ofNum rm)
  else if b = 0x00 then .modRm group0F00
  else if b = 0x02 ∨ b = 0x03 then .modRm fun _ _ => .unsupported
  else if b = 0xC0 ∨ b = 0xC1 ∨ b = 0xB0 ∨ b = 0xB1 ∨ b = 0xAB ∨ b = 0xB3 ∨ b = 0xBB then .modRm lockableRow
  else if b = 0xBA then .modRm group0FBA
  else .noRule

/-- Reads what follows an opcode of `n` bytes (R84 steps 3 and 4). -/
def finishForm (a32 : Bool) (n : Nat) (r : List Byte) : Form → Decoded
  | .bare i => .ok i n
  | .imm f =>
    match r with
    | [] => .more
    | b :: _ => .ok (f b) (n + 1)
  | .modReg f =>
    match r with
    | [] => .more
    | m :: r' =>
      match parseRm a32 m r' with
      | none => .more
      | some (_, k) => .ok (f (regField m) (rmField m)) (n + 1 + k)
  | .modRm g =>
    match r with
    | [] => .more
    | m :: r' =>
      match parseRm a32 m r' with
      | none => .more
      | some (x, k) =>
        match g (regField m) x with
        | .done i => .ok i (n + 1 + k)
        | .doneImm f =>
          match r'.drop k with
          | [] => .more
          | b :: _ => .ok (f b) (n + 2 + k)
        | .unsupported => .unsupported
        | .noRule l => .noRule l
        | .escOrWait => .escOrWait
  | .noRule => .noRule false
  | .escOrWait => .escOrWait

/-- One prefix byte, or one instruction without prefix bytes, read from the front of a list of bytes (R84). -/
def decode (a32 : Bool) : List Byte → Decoded
  | [] => .more
  | b :: r =>
    if b = 0x0F then
      match r with
      | [] => .more
      | b2 :: r2 => finishForm a32 2 r2 (form2 b2)
    else finishForm a32 1 r (form1 b)

/-! The encoder. -/

/-- The ModRM byte and what follows it for a 16-bit memory operand (R76). -/
def encodeMem16 (reg : BitVec 3) : Mem16 → List Byte
  | .direct d => packByte 0 reg 6 :: bytes16 d
  | .based b .none => [packByte 0 reg b.num]
  | .based b (.d8 d) => [packByte 1 reg b.num, d]
  | .based b (.d16 d) => packByte 2 reg b.num :: bytes16 d

/-- The mod field that a displacement calls for (R78). -/
def Disp32.modNum : Disp32 → BitVec 2
  | .none => 0
  | .d8 _ => 1
  | .d32 _ => 2

/-- The bytes of a displacement. -/
def Disp32.bytes : Disp32 → List Byte
  | .none => []
  | .d8 d => [d]
  | .d32 d => bytes32 d

/-- The ModRM byte and what follows it for a 32-bit memory operand (R78). -/
def encodeMem32 (reg : BitVec 3) : Mem32 → List Byte
  | .direct d => packByte 0 reg 5 :: bytes32 d
  | .based b d => packByte d.modNum reg b.num :: d.bytes
  | .sib sc ix b d => packByte d.modNum reg 4 :: packByte sc ix.num b.num :: d.bytes
  | .sibDisp sc ix d => packByte 0 reg 4 :: packByte sc ix.num 5 :: bytes32 d

/-- The ModRM byte and what follows it for a memory operand. -/
def encodeMem (reg : BitVec 3) : MemRef → List Byte
  | .a16 m => encodeMem16 reg m
  | .a32 m => encodeMem32 reg m

/-- The ModRM byte and what follows it for an 8-bit operand. -/
def encodeRm8 (reg : BitVec 3) : Rm Reg8 → List Byte
  | .reg r => [packByte 3 reg r.num]
  | .mem m => encodeMem reg m

/-- The ModRM byte and what follows it for a 16- or 32-bit operand. -/
def encodeRmW (reg : BitVec 3) : Rm Reg → List Byte
  | .reg r => [packByte 3 reg r.num]
  | .mem m => encodeMem reg m

/-- The bytes of an instruction, from the same tables (R83). -/
def encode : Instr → List Byte
  | .cli => [0xFA]
  | .sti => [0xFB]
  | .pushf => [0x9C]
  | .popf => [0x9D]
  | .intN v => [0xCD, v]
  | .iret => [0xCF]
  | .inAlImm p => [0xE4, p]
  | .inAxImm p => [0xE5, p]
  | .inAlDx => [0xEC]
  | .inAxDx => [0xED]
  | .outImmAl p => [0xE6, p]
  | .outImmAx p => [0xE7, p]
  | .outDxAl => [0xEE]
  | .outDxAx => [0xEF]
  | .insb => [0x6C]
  | .insw => [0x6D]
  | .outsb => [0x6E]
  | .outsw => [0x6F]
  | .lidt m => 0x0F :: 0x01 :: encodeMem 3 m
  | .lgdt m => 0x0F :: 0x01 :: encodeMem 2 m
  | .lmsw x => 0x0F :: 0x01 :: encodeRmW 6 x
  | .movFromCr n r => [0x0F, 0x20, packByte 3 n r.num]
  | .movToCr n r => [0x0F, 0x22, packByte 3 n r.num]
  | .clts => [0x0F, 0x06]
  | .hlt => [0xF4]
  | .invd => [0x0F, 0x08]
  | .wbinvd => [0x0F, 0x09]
  | .invlpg m => 0x0F :: 0x01 :: encodeMem 7 m
  | .movFromDr n r => [0x0F, 0x21, packByte 3 n r.num]
  | .movToDr n r => [0x0F, 0x23, packByte 3 n r.num]
  | .movFromTr n r => [0x0F, 0x24, packByte 3 n r.num]
  | .movToTr n r => [0x0F, 0x26, packByte 3 n r.num]
  | .push r => [0b01010#5 ++ r.num]
  | .movRRm r x => 0x8B :: encodeRmW r.num x
  | .movRmR x r => 0x89 :: encodeRmW r.num x
  | .xchg x r => 0x87 :: encodeRmW r.num x
  | .movSregRm n x => 0x8E :: encodeRmW n x
  | .movRmSreg x n => 0x8C :: encodeRmW n x
  | .div8 x => 0xF6 :: encodeRm8 6 x
  | .divW x => 0xF7 :: encodeRmW 6 x
  | .idiv8 x => 0xF6 :: encodeRm8 7 x
  | .idivW x => 0xF7 :: encodeRmW 7 x
  | .rol8One x => 0xD0 :: encodeRm8 0 x
  | .rolWOne x => 0xD1 :: encodeRmW 0 x
  | .rol8Cl x => 0xD2 :: encodeRm8 0 x
  | .rolWCl x => 0xD3 :: encodeRmW 0 x
  | .rol8Imm x c => 0xC0 :: encodeRm8 0 x ++ [c]
  | .rolWImm x c => 0xC1 :: encodeRmW 0 x ++ [c]
  | .ror8One x => 0xD0 :: encodeRm8 1 x
  | .rorWOne x => 0xD1 :: encodeRmW 1 x
  | .ror8Cl x => 0xD2 :: encodeRm8 1 x
  | .rorWCl x => 0xD3 :: encodeRmW 1 x
  | .ror8Imm x c => 0xC0 :: encodeRm8 1 x ++ [c]
  | .rorWImm x c => 0xC1 :: encodeRmW 1 x ++ [c]
  | .rcl8One x => 0xD0 :: encodeRm8 2 x
  | .rclWOne x => 0xD1 :: encodeRmW 2 x
  | .rcl8Cl x => 0xD2 :: encodeRm8 2 x
  | .rclWCl x => 0xD3 :: encodeRmW 2 x
  | .rcl8Imm x c => 0xC0 :: encodeRm8 2 x ++ [c]
  | .rclWImm x c => 0xC1 :: encodeRmW 2 x ++ [c]
  | .rcr8One x => 0xD0 :: encodeRm8 3 x
  | .rcrWOne x => 0xD1 :: encodeRmW 3 x
  | .rcr8Cl x => 0xD2 :: encodeRm8 3 x
  | .rcrWCl x => 0xD3 :: encodeRmW 3 x
  | .rcr8Imm x c => 0xC0 :: encodeRm8 3 x ++ [c]
  | .rcrWImm x c => 0xC1 :: encodeRmW 3 x ++ [c]
  | .shl8One x => 0xD0 :: encodeRm8 4 x
  | .shlWOne x => 0xD1 :: encodeRmW 4 x
  | .shl8Cl x => 0xD2 :: encodeRm8 4 x
  | .shlWCl x => 0xD3 :: encodeRmW 4 x
  | .shl8Imm x c => 0xC0 :: encodeRm8 4 x ++ [c]
  | .shlWImm x c => 0xC1 :: encodeRmW 4 x ++ [c]
  | .shr8One x => 0xD0 :: encodeRm8 5 x
  | .shrWOne x => 0xD1 :: encodeRmW 5 x
  | .shr8Cl x => 0xD2 :: encodeRm8 5 x
  | .shrWCl x => 0xD3 :: encodeRmW 5 x
  | .shr8Imm x c => 0xC0 :: encodeRm8 5 x ++ [c]
  | .shrWImm x c => 0xC1 :: encodeRmW 5 x ++ [c]
  | .sar8One x => 0xD0 :: encodeRm8 7 x
  | .sarWOne x => 0xD1 :: encodeRmW 7 x
  | .sar8Cl x => 0xD2 :: encodeRm8 7 x
  | .sarWCl x => 0xD3 :: encodeRmW 7 x
  | .sar8Imm x c => 0xC0 :: encodeRm8 7 x ++ [c]
  | .sarWImm x c => 0xC1 :: encodeRmW 7 x ++ [c]
  | .opSizePfx => [0x66]
  | .addrSizePfx => [0x67]
  | .esPfx => [0x26]
  | .csPfx => [0x2E]
  | .ssPfx => [0x36]
  | .dsPfx => [0x3E]
  | .fsPfx => [0x64]
  | .gsPfx => [0x65]
  | .lockPfx => [0xF0]
  | .repnePfx => [0xF2]
  | .repPfx => [0xF3]

/-- The bytes of an instruction numbered as spec/opcode_table.json numbers its bits: `nbits` bits of `w`, first byte lowest,
and zeros above them up to the longest instruction (15 bytes, R70). -/
def tableBytes (nbits w : Nat) : List Byte :=
  (List.range 15).map fun k => BitVec.ofNat 8 ((w % 2 ^ nbits) >>> (8 * k))

/-- The instruction that the decoder reads from the table word `w` in 16-bit addressing; none where it refuses. -/
def decodeTableWord (nbits w : Nat) : Option Instr :=
  match decode false (tableBytes nbits w) with
  | .ok i _ => some i
  | _ => none

end Sys2Proof
end

