-- ==== Sys2Proof/Config.lean ====
section
/-! DEFINITION. What the spec leaves open: opaque constants without a body. Nothing can evaluate them, so a theorem
holds whatever they are. Each is applied to the counter `draws` of State, so that every execution draws afresh (D18). -/

namespace Sys2Proof.Config

/-- A bit under no law: `draw(1)` of spec/00_scope.md section 5, for the flags that an instruction leaves undefined (D18,
U1 to U4). Log 9. -/
opaque drawBit : Nat → Bool

/-- Sixteen bits under no law: `draw(16)`, for the upper half of the register destination of MOV r/m, Sreg with 32-bit
operand size (R165, U6). Log 11. -/
opaque drawWord : Nat → Word

/-- What the platform's devices answer to a read of a port (R134, D30, U22): draw index, port, width in bytes. Log 12. -/
opaque ioAnswer : Nat → Word → Nat → Dword

/-- Whether an NMI request that arrives while `NmiMasked` is 1 is remembered (D32, U20). Log 26. -/
opaque maskedNmiKept : Nat → Bool

/-- Whether REP INS or REP OUTS with a count of 0 still makes the permission check (R133, D25, U23). Log 28. -/
opaque zeroCountChecks : Nat → Bool

/-- The parameter `LOCK_IOPL_SENSITIVE` (R110, C3, D11). The spec's default is false; a theorem holds on both readings.
Log 29. -/
opaque lockIoplSensitive : Bool

end Sys2Proof.Config
end

