-- ==== Sys2Proof/Machine/State.lean ====
section
/-! DEFINITION. The state of the machine as plain data, the reasons a step can stop, and the state after reset
(spec/10_state.md). -/

namespace Sys2Proof.Machine

/-- Physical memory: the bytes that differ from `unlistedByte`, by rising physical address. -/
abbrev Memory := List Host.Cell

/-- What a byte of memory reads as that no entry lists (R35 gives memory no reset contents). DESIGN CHOICE, log 8. -/
def unlistedByte : Byte := 0

/-- Addresses strictly rise from just above `lo`, and no entry holds the unlisted byte. -/
def Memory.wfFrom (lo : Nat) : Memory → Bool
  | [] => true
  | (a, b) :: m => decide (lo ≤ a) && decide (b ≠ unlistedByte) && Memory.wfFrom (a + 1) m

/-- The canonical form of memory: addresses strictly rising, no entry equal to what an unlisted address reads as. -/
def Memory.wf (m : Memory) : Bool := Memory.wfFrom 0 m

/-- The general registers (R13). -/
structure Regs where
  eax : Dword
  ecx : Dword
  edx : Dword
  ebx : Dword
  esp : Dword
  ebp : Dword
  esi : Dword
  edi : Dword
deriving DecidableEq, Repr

/-- A segment register: the selector and its hidden part (R15). -/
structure SegReg where
  sel : Word
  /-- the hidden base, computed when the register is loaded. -/
  base : Dword
  /-- the hidden limit, the highest offset; read in protected mode only (R15, log 19). -/
  limit : Dword
  /-- false after a null selector was loaded in protected mode (R205, log 7). -/
  usable : Bool
  /-- 32-bit code or a 32-bit stack; read in protected mode only (R203, log 7). -/
  big : Bool
deriving DecidableEq, Repr

/-- The six segment registers (R15). -/
structure Segs where
  es : SegReg
  cs : SegReg
  ss : SegReg
  ds : SegReg
  fs : SegReg
  gs : SegReg
deriving DecidableEq, Repr

/-- EFLAGS (R18, R19): its thirteen one-bit flags and IOPL. The reserved bits are hard-wired (R19, U39), so these are all that
the 32-bit register holds; the register as a word is computed from them in one place (`Eflags.word`). -/
structure Eflags where
  /-- bit 0, carry. -/
  cf : Bool
  /-- bit 2, parity. -/
  pf : Bool
  /-- bit 4, auxiliary carry. -/
  af : Bool
  /-- bit 6, zero. -/
  zf : Bool
  /-- bit 7, sign. -/
  sf : Bool
  /-- bit 8, TF, single step. -/
  tf : Bool
  /-- bit 9, IF, interrupt enable. -/
  intf : Bool
  /-- bit 10, direction. -/
  df : Bool
  /-- bit 11, overflow. -/
  of : Bool
  /-- bits 13:12, I/O privilege level. -/
  iopl : BitVec 2
  /-- bit 14, nested task. -/
  nt : Bool
  /-- bit 16, resume. -/
  rf : Bool
  /-- bit 17, virtual-8086 mode. -/
  vm : Bool
  /-- bit 18, alignment check. -/
  ac : Bool
deriving DecidableEq, Repr

/-- The control registers (R25). -/
structure CtrlRegs where
  cr0 : Dword
  cr2 : Dword
  cr3 : Dword
deriving DecidableEq, Repr

/-- The debug registers (R25). -/
structure DebugRegs where
  dr0 : Dword
  dr1 : Dword
  dr2 : Dword
  dr3 : Dword
  dr6 : Dword
  dr7 : Dword
deriving DecidableEq, Repr

/-- The test registers (R25). -/
structure TestRegs where
  tr3 : Dword
  tr4 : Dword
  tr5 : Dword
  tr6 : Dword
  tr7 : Dword
deriving DecidableEq, Repr

/-- GDTR or IDTR: 32-bit base and 16-bit limit (R27, R35). -/
structure TableReg where
  base : Dword
  limit : Word
deriving DecidableEq, Repr

/-- The task register: selector, hidden base and limit, and whether the TSS is an 80286 TSS (R26, R208). -/
structure TaskReg where
  sel : Word
  base : Dword
  limit : Dword
  is286 : Bool
deriving DecidableEq, Repr

/-- What an access is made for: the access kinds of `Translate` (00_scope section 4). -/
inductive Access where
  | read | write | fetch
deriving DecidableEq, Repr

/-- The privilege an access is made with (R51, R63). -/
inductive Priv where
  | user | supervisor
deriving DecidableEq, Repr

/-- One page of `Translate` under one value of CR3: linear page, physical page, and the accesses it allows (log 13). -/
structure PageEntry where
  cr3 : Dword
  page : BitVec 20
  frame : BitVec 20
  allowed : List (Access × Priv)
deriving DecidableEq, Repr

/-- What a descriptor says of a segment: `CodeSegOf` and `Ss0Base` of 00_scope section 4 (log 14). It says nothing of access
rights by type: no writable, readable or expand-down bit (DESIGN CHOICE, log 56); nor has it a present bit: a segment that is not
present is one without a descriptor (DESIGN CHOICE, log 14). -/
structure SegDesc where
  base : Dword
  limit : Dword
  dpl : BitVec 2
  code : Bool
  conforming : Bool
  big : Bool
deriving DecidableEq, Repr

/-- What a descriptor says of a TSS. It has no present bit: a TSS that is not present is one without a descriptor (DESIGN CHOICE,
log 14). -/
structure TssDesc where
  base : Dword
  limit : Dword
  is286 : Bool
deriving DecidableEq, Repr

/-- What a descriptor says. -/
inductive Desc where
  | seg (d : SegDesc)
  | tss (d : TssDesc)
deriving DecidableEq, Repr

/-- The descriptor that a selector names. -/
structure DescEntry where
  sel : Word
  desc : Desc
deriving DecidableEq, Repr

/-- What the environment offers at one instruction boundary: at most one event of each kind (D23) and what other bus
masters wrote since the last one (D15). -/
structure Offer where
  irq : Option Byte
  nmi : Bool
  fpError : Bool
  busWrites : List Host.Cell
deriving DecidableEq, Repr

/-- One access to a port: `IoRead` with the value answered, or `IoWrite` (R134). -/
inductive IoEvent where
  | input (port : Word) (bytes : Nat) (value : Dword)
  | output (port : Word) (bytes : Nat) (value : Dword)
deriving DecidableEq, Repr

/-- Which repeat prefix byte was seen last (R71, R133). -/
inductive Repeat where
  | repne | rep
deriving DecidableEq, Repr

/-- What the prefix bytes of the current instruction said so far (R71, R84 step 1). -/
structure Pfx where
  opSize : Bool
  addrSize : Bool
  seg : Option SReg
  lock : Bool
  rep : Option Repeat
deriving DecidableEq, Repr

/-- No prefix byte. -/
def Pfx.none : Pfx :=
  { opSize := false, addrSize := false, seg := Option.none, lock := false, rep := Option.none }

/-- The string I/O instructions, which a repeat prefix byte repeats (R129 to R133). -/
inductive StringIo where
  | insb | insw | outsb | outsw
deriving DecidableEq, Repr

/-- A repeated instruction between two of its iterations: which it is, its length, and what its prefix bytes said. R133's loop
goes on with it, and R84 has decoded it once. -/
structure Iteration where
  op : StringIo
  ilen : Nat
  pfx : Pfx
deriving DecidableEq, Repr

/-- The state of the machine: everything the spec gives it (INVENTORY.md, heading State). -/
structure State where
  regs : Regs
  segs : Segs
  eip : Dword
  eflags : Eflags
  cpl : BitVec 2
  ctrl : CtrlRegs
  dbg : DebugRegs
  tst : TestRegs
  gdtr : TableReg
  idtr : TableReg
  ldtr : Word
  tr : TaskReg
  /-- R30. -/
  nmiMasked : Bool
  /-- R33. -/
  intShadow : Bool
  /-- D22: the shadow of a load of SS, which holds back NMI and single-step too (log 24). -/
  ssShadow : Bool
  /-- R31: a single-step trap is pending. -/
  trapPending : Bool
  /-- R31: an NMI request is pending. -/
  nmiPending : Bool
  /-- R31: a floating-point error is pending. -/
  fpPending : Bool
  /-- R31: external interrupt requests, by vector, oldest first. -/
  irqs : List Byte
  /-- `ExtEvents`: what the environment offers at the boundaries to come (D23). -/
  extEvents : List Offer
  /-- R147: HLT was executed where it may be (log 36). -/
  halted : Bool
  mem : Memory
  /-- `Translate` (D16, log 13). -/
  pageMap : List PageEntry
  /-- `CodeSegOf`, `Ss0Base` and the TSS of a selector (log 14). -/
  descriptors : List DescEntry
  /-- R60: physical addresses written since the last control transfer. -/
  written : List Nat
  /-- the model's own record of the port accesses made, newest first (log 12). -/
  ioTrace : List IoEvent
  /-- the model's own counter of free values drawn (log 10). -/
  draws : Nat
  /-- how many bytes of the current instruction have been fetched; 0 at an instruction boundary (log 1). -/
  ilen : Nat
  /-- what the prefix bytes of the current instruction said (log 1). -/
  pfx : Pfx
  /-- R133: the repeated instruction whose next iteration comes after this boundary, if there is one (log 28). -/
  iterating : Option Iteration
deriving DecidableEq, Repr

/-- The reasons the machine itself stops. -/
inductive Fault where
  /-- Another bus master wrote outside the 32-bit physical address space (R40, 00_scope section 4); raised at an
  instruction boundary. Safe: no such address exists (log 39). -/
  | busAddress (addr : Nat)
deriving DecidableEq, Repr

/-- The reasons the model gives a step no meaning. Each is safe: the run is outside what a proof covers. -/
inductive Refusal where
  /-- Raised by `exec` for an instruction of the opcode table that has no meaning yet. Safe. -/
  | notModelled (mnemonic : String)
  /-- Raised at decode for an instruction that the spec gives no rule (D19, U8, U9, U13). Safe. -/
  | noRule
  /-- Raised at decode for an ESC or WAIT instruction with no error pending (U14). Safe. -/
  | floatingPoint
  /-- Raised by a fetch from an address written since the last control transfer (R60, U26). Safe. -/
  | staleFetch
  /-- Raised by a misaligned access with CR0.AM = 1 and EFLAGS.AC = 1 at CPL 3 (R56, D17, U28). Safe. -/
  | alignmentCheck
  /-- Raised by delivery through an IDT entry that is no task gate and no 32-bit trap or interrupt gate (R202, U16).
  Safe. -/
  | gateKind
  /-- Raised by a failure inside delivery other than the gate-target check, and by a failure while delivering that check's #GP
  (R231, D35, U18). Safe. -/
  | deliveryFailure
  /-- Raised by an interrupt or exception in protected mode, delivered there by rules that are not in the spec (R218).
  Safe. -/
  | protectedEvent
  /-- Raised by an IRET in protected mode that is not the entry into V86 mode: an ordinary protected-mode return
  (95_test_vectors section 2.12). Safe. -/
  | protectedReturn
  /-- Raised by the IRET, or the task switch, that enters V86 mode when its EIP image is above FFFFH (R107, R252, D10, U15).
  Safe. -/
  | v86EntryEip
  /-- Raised by a load of a segment register in protected mode whose descriptor is not given (R208). Safe. -/
  | descriptorLoad
  /-- Raised by a task switch whose TSS cannot be found, read or written (N17). Safe. -/
  | taskSwitch
deriving DecidableEq, Repr

/-- A data segment register after reset (R35). -/
def resetSeg : SegReg := { sel := 0, base := 0, limit := 0xFFFF, usable := true, big := false }

/-- EFLAGS after reset: 00000002H (R35), that is, every flag 0. -/
def resetEflags : Eflags :=
  { cf := false, pf := false, af := false, zf := false, sf := false, tf := false, intf := false, df := false, of := false,
    iopl := 0, nt := false, rf := false, vm := false, ac := false }

/-- The machine right after reset: real-address mode (R35, R250). Values that R35 does not give are log 3 to 8; the tables that
stand for `Translate` and `CodeSegOf` are empty (DESIGN CHOICE, log 13, 14). -/
def State.reset : State :=
  { regs := { eax := 0, ecx := 0, edx := 0x00000400, ebx := 0, esp := 0, ebp := 0, esi := 0, edi := 0 }
    segs := { es := resetSeg, cs := { resetSeg with sel := 0xF000, base := 0xFFFF0000 }, ss := resetSeg, ds := resetSeg,
              fs := resetSeg, gs := resetSeg }
    eip := 0x0000FFF0
    eflags := resetEflags
    cpl := 0
    ctrl := { cr0 := 0x60000010, cr2 := 0, cr3 := 0 }
    dbg := { dr0 := 0, dr1 := 0, dr2 := 0, dr3 := 0, dr6 := 0, dr7 := 0 }
    tst := { tr3 := 0, tr4 := 0, tr5 := 0, tr6 := 0, tr7 := 0 }
    gdtr := { base := 0, limit := 0 }
    idtr := { base := 0, limit := 0x03FF }
    ldtr := 0
    tr := { sel := 0, base := 0, limit := 0, is286 := false }
    nmiMasked := false
    intShadow := false
    ssShadow := false
    trapPending := false
    nmiPending := false
    fpPending := false
    irqs := []
    extEvents := []
    halted := false
    mem := []
    pageMap := []
    descriptors := []
    written := []
    ioTrace := []
    draws := 0
    ilen := 0
    pfx := Pfx.none
    iterating := none }

end Sys2Proof.Machine
end

