-- ==== Sys2Proof/Machine/Flags.lean ====
section
/-! DEFINITION. EFLAGS: its named bits (R19), the images that are stored and loaded (R24, R103 to R107), and every flag
computation of the divide, shift and rotate instructions (R171 to R182). -/

namespace Sys2Proof.Machine

/-- EFLAGS as a 32-bit word, from bit 31 down to bit 0: bit 1 reads as 1, bits 3, 5, 15 and 31:19 as 0 (R19). -/
def Eflags.word (f : Eflags) : Dword :=
  0#13 ++ BitVec.ofBool f.ac ++ BitVec.ofBool f.vm ++ BitVec.ofBool f.rf ++ 0#1 ++ BitVec.ofBool f.nt ++ f.iopl
    ++ BitVec.ofBool f.of ++ BitVec.ofBool f.df ++ BitVec.ofBool f.intf ++ BitVec.ofBool f.tf ++ BitVec.ofBool f.sf
    ++ BitVec.ofBool f.zf ++ 0#1 ++ BitVec.ofBool f.af ++ 0#1 ++ BitVec.ofBool f.pf ++ 1#1 ++ BitVec.ofBool f.cf

/-- The flags of a 32-bit image; the image's reserved bits are ignored (R19, U39). -/
def Eflags.ofWord (w : Dword) : Eflags :=
  { cf := w.getLsbD 0, pf := w.getLsbD 2, af := w.getLsbD 4, zf := w.getLsbD 6, sf := w.getLsbD 7, tf := w.getLsbD 8
    intf := w.getLsbD 9, df := w.getLsbD 10, of := w.getLsbD 11, iopl := w.extractLsb' 12 2, nt := w.getLsbD 14
    rf := w.getLsbD 16, vm := w.getLsbD 17, ac := w.getLsbD 18 }

/-- EFLAGS after an image is loaded by POPF or IRET (R104, R106): VM never changes; CF, PF, AF, ZF, SF, TF, DF, OF and NT
always come from the image; IF, IOPL, RF and AC when they may. -/
def Eflags.load (old image : Eflags) (loadIf loadIopl loadRf loadAc : Bool) : Eflags :=
  { image with
    vm := old.vm
    intf := if loadIf then image.intf else old.intf
    iopl := if loadIopl then image.iopl else old.iopl
    rf := if loadRf then image.rf else old.rf
    ac := if loadAc then image.ac else old.ac }

/-- The image that PUSHFD stores: EFLAGS AND 00FCFFFFH, so VM and RF read as 0 (R103). -/
def pushfdImage (f : Eflags) : Dword := f.word &&& 0x00FCFFFF

/-- The image that PUSHF stores: EFLAGS[15:0] (R103). -/
def pushf16Image (f : Eflags) : Dword := f.word &&& 0xFFFF

/-- EFLAGS at the handler's first instruction: VM, TF, NT and RF cleared, IF cleared by an interrupt gate (R203, D9). -/
def entryFlags (f : Eflags) (intGate : Bool) : Eflags :=
  { f with vm := false, tf := false, nt := false, rf := false, intf := if intGate then false else f.intf }

/-- PF: whether the number of 1 bits of a byte is even (R19). -/
def evenParity (b : Byte) : Bool :=
  !(b.getLsbD 0 ^^ b.getLsbD 1 ^^ b.getLsbD 2 ^^ b.getLsbD 3 ^^ b.getLsbD 4 ^^ b.getLsbD 5 ^^ b.getLsbD 6 ^^ b.getLsbD 7)

/-- SF, ZF and PF of a result (R180 to R182). -/
def resultFlags {n : Nat} (f : Eflags) (r : BitVec n) : Eflags :=
  { f with sf := r.msb, zf := r == 0, pf := evenParity (r.setWidth 8) }

/-- The six arithmetic flags after DIV and IDIV: each a free value (R171, U1). `k` counts the draws. -/
def divideFlags (f : Eflags) (k : Nat) : Eflags :=
  { f with
    cf := Config.drawBit k
    of := Config.drawBit (k + 1)
    sf := Config.drawBit (k + 2)
    zf := Config.drawBit (k + 3)
    af := Config.drawBit (k + 4)
    pf := Config.drawBit (k + 5) }

/-- How many free values a divide draws. -/
def divideDraws : Nat := 6

/-- The seven shift and rotate instructions (R183). -/
inductive ShiftOp where
  | rol | ror | rcl | rcr | shl | shr | sar
deriving DecidableEq, Repr

/-- The count after masking: count AND 1FH (R175). -/
def maskCount (count : Byte) : Nat := (count &&& 0x1F).toNat

/-- RCL's and RCR's operand with CF on top, N + 1 bits (R178, R179). -/
def withCarry {n : Nat} (cf : Bool) (d : BitVec n) : BitVec (1 + n) := BitVec.ofBool cf ++ d

/-- RCL's N + 1 bits after the rotation; the count counts modulo N + 1 (R178). -/
def rclBits {n : Nat} (cf : Bool) (d : BitVec n) (c : Nat) : BitVec (1 + n) := (withCarry cf d).rotateLeft c

/-- RCR's N + 1 bits after the rotation (R179). -/
def rcrBits {n : Nat} (cf : Bool) (d : BitVec n) (c : Nat) : BitVec (1 + n) := (withCarry cf d).rotateRight c

/-- The result of a shift or rotate of the operand `d` by a masked count `c` that is not 0 (R176 to R182). -/
def shiftResult {n : Nat} (op : ShiftOp) (cf : Bool) (d : BitVec n) (c : Nat) : BitVec n :=
  match op with
  | .rol => d.rotateLeft c
  | .ror => d.rotateRight c
  | .rcl => (rclBits cf d c).setWidth n
  | .rcr => (rcrBits cf d c).setWidth n
  | .shl => d <<< c
  | .shr => d >>> c
  | .sar => d.sshiftRight c

/-- CF after it; `free` stands for it where the rule draws it (R176 to R182). -/
def shiftCarry {n : Nat} (op : ShiftOp) (cf : Bool) (d : BitVec n) (c : Nat) (free : Bool) : Bool :=
  match op with
  | .rol => (d.rotateLeft c).getLsbD 0
  | .ror => (d.rotateRight c).msb
  | .rcl => (rclBits cf d c).getLsbD n
  | .rcr => (rcrBits cf d c).getLsbD n
  | .shl => if c < n then d.getLsbD (n - c) else free
  | .shr => if c < n then d.getLsbD (c - 1) else free
  | .sar => if c ≤ n then d.getLsbD (c - 1) else d.msb

/-- OF after it: defined for a masked count of 1 only, else `free` (R176 to R182). -/
def shiftOverflow {n : Nat} (op : ShiftOp) (cf : Bool) (d : BitVec n) (c : Nat) (free : Bool) : Bool :=
  if c = 1 then
    match op with
    | .rol => (shiftResult .rol cf d c).msb ^^ shiftCarry .rol cf d c free
    | .ror => (shiftResult .ror cf d c).msb ^^ (shiftResult .ror cf d c).getLsbD (n - 2)
    | .rcl => (shiftResult .rcl cf d c).msb ^^ shiftCarry .rcl cf d c free
    | .rcr => d.msb ^^ cf
    | .shl => (shiftResult .shl cf d c).msb ^^ shiftCarry .shl cf d c free
    | .shr => d.msb
    | .sar => false
  else free

/-- Whether the instruction is a shift, which also writes SF, ZF, PF and AF (R180 to R182), and not a rotate. -/
def ShiftOp.isShift : ShiftOp → Bool
  | .shl | .shr | .sar => true
  | _ => false

/-- EFLAGS after a shift or rotate by a masked count that is not 0: a rotate writes CF and OF, a shift SF, ZF, PF and AF too.
Free values: OF draws `k`, CF `k + 1`, AF `k + 2`. -/
def shiftFlags {n : Nat} (op : ShiftOp) (f : Eflags) (d : BitVec n) (c k : Nat) : Eflags :=
  let f1 : Eflags :=
    { f with
      cf := shiftCarry op f.cf d c (Config.drawBit (k + 1))
      of := shiftOverflow op f.cf d c (Config.drawBit k) }
  if op.isShift then { resultFlags f1 (shiftResult op f.cf d c) with af := Config.drawBit (k + 2) } else f1

/-- How many free values a shift or rotate draws. -/
def shiftDraws : Nat := 3

end Sys2Proof.Machine
end

