-- ==== Sys2Proof/Machine/Ops.lean ====
section
/-! DEFINITION. The named operations over registers, memory, ports and tables that every meaning is written with; taking an
exception; returning from one; the task switch. -/

namespace Sys2Proof.Machine

/-! Outcomes of an operation. -/

/-- An exception that an instruction raises: vector, error code if the vector pushes one, and CR2 for a page fault (R200). -/
structure Exc where
  vector : Byte
  err : Option Dword
  cr2 : Option Dword
deriving DecidableEq, Repr

/-- Why an operation does not complete: an exception to deliver, or no meaning. -/
inductive Stop where
  | exc (e : Exc)
  | refuse (r : Refusal)
deriving DecidableEq, Repr

/-- The result of an operation that may stop. -/
abbrev M (α : Type) := Except Stop α

/-- The outcome of a step. -/
abbrev Out := Host.Outcome State Fault Refusal

/-- Raises an exception. -/
def raising {α : Type} (e : Exc) : M α := .error (.exc e)

/-- Refuses. -/
def refusing {α : Type} (r : Refusal) : M α := .error (.refuse r)

/-- #DE, vector 0, no error code (R170, R200). -/
def excDE : Exc := { vector := 0, err := none, cr2 := none }

/-- #UD, vector 6, no error code (R82, R200). -/
def excUD : Exc := { vector := 6, err := none, cr2 := none }

/-- #SS(0), vector 12 (R48, R200, D3). -/
def excSS0 : Exc := { vector := 12, err := some 0, cr2 := none }

/-- #GP(0), vector 13 (R200, D3). -/
def excGP0 : Exc := { vector := 13, err := some 0, cr2 := none }

/-- #GP with an error code (R105, R206, R213). -/
def excGP (code : Dword) : Exc := { vector := 13, err := some code, cr2 := none }

/-- #PF, vector 14: CR2, and the error code's bit 0 page present, bit 1 write, bit 2 user privilege (R232). -/
def excPF (la : Dword) (present : Bool) (k : Access) (p : Priv) : Exc :=
  { vector := 14
    err := some ((if present then 1 else 0) ||| (if k = .write then 2 else 0) ||| (if p = .user then 4 else 0))
    cr2 := some la }

/-! The mode. -/

/-- The three modes in which the processor can be (R10, R35, R250). -/
inductive Mode where
  | real | prot | v86
deriving DecidableEq, Repr

/-- The VM flag (R10). -/
def State.vm (s : State) : Bool := s.eflags.vm

/-- CR0 bit 0, PE (R25). -/
def State.pe (s : State) : Bool := s.ctrl.cr0.getLsbD 0

/-- CR0 bit 31, PG (R25). -/
def State.pg (s : State) : Bool := s.ctrl.cr0.getLsbD 31

/-- IOPL (R22). -/
def State.iopl (s : State) : BitVec 2 := s.eflags.iopl

/-- V86 mode exactly when VM is 1 (R10); else protected mode when PE is 1; else real-address mode (R25, log 2). -/
def State.mode (s : State) : Mode := if s.vm then .v86 else if s.pe then .prot else .real

/-! General registers. -/

/-- A general register. -/
def Regs.get (r : Regs) : Reg → Dword
  | .eax => r.eax | .ecx => r.ecx | .edx => r.edx | .ebx => r.ebx
  | .esp => r.esp | .ebp => r.ebp | .esi => r.esi | .edi => r.edi

/-- The general registers with one written. -/
def Regs.set (r : Regs) (x : Reg) (v : Dword) : Regs :=
  match x with
  | .eax => { r with eax := v } | .ecx => { r with ecx := v } | .edx => { r with edx := v } | .ebx => { r with ebx := v }
  | .esp => { r with esp := v } | .ebp => { r with ebp := v } | .esi => { r with esi := v } | .edi => { r with edi := v }

/-- The 32-bit register that an 8-bit register is part of (R13). -/
def wholeReg : Reg8 → Reg
  | .al | .ah => .eax
  | .cl | .ch => .ecx
  | .dl | .dh => .edx
  | .bl | .bh => .ebx

/-- Whether an 8-bit register is bits 15..8 of its register, and not bits 7..0 (R13). -/
def isHighReg : Reg8 → Bool
  | .al | .cl | .dl | .bl => false
  | .ah | .ch | .dh | .bh => true

/-- A doubleword with its low word replaced: a 16-bit write leaves bits 31..16 (00_scope section 5). -/
def putLow16 (old : Dword) (v : Word) : Dword := old.extractLsb' 16 16 ++ v

/-- A doubleword with its low byte replaced. -/
def putLow8 (old : Dword) (v : Byte) : Dword := old.extractLsb' 8 24 ++ v

/-- A doubleword with its second byte replaced. -/
def putHigh8 (old : Dword) (v : Byte) : Dword := old.extractLsb' 16 16 ++ v ++ old.extractLsb' 0 8

/-- A general register, 32 bits. -/
def State.reg (s : State) (r : Reg) : Dword := s.regs.get r

/-- A general register, its low 16 bits. -/
def State.reg16 (s : State) (r : Reg) : Word := (s.regs.get r).setWidth 16

/-- An 8-bit register. -/
def State.reg8 (s : State) (r : Reg8) : Byte :=
  if isHighReg r then (s.regs.get (wholeReg r)).extractLsb' 8 8 else (s.regs.get (wholeReg r)).extractLsb' 0 8

/-- Writes a general register, 32 bits. -/
def State.setReg (s : State) (r : Reg) (v : Dword) : State := { s with regs := s.regs.set r v }

/-- Writes the low 16 bits of a general register. -/
def State.setReg16 (s : State) (r : Reg) (v : Word) : State := s.setReg r (putLow16 (s.reg r) v)

/-- Writes an 8-bit register. -/
def State.setReg8 (s : State) (r : Reg8) (v : Byte) : State :=
  s.setReg (wholeReg r) (if isHighReg r then putHigh8 (s.reg (wholeReg r)) v else putLow8 (s.reg (wholeReg r)) v)

/-- A register at the operand size, as a doubleword whose upper half is 0 when the size is 16 (00_scope section 5). -/
def State.regW (s : State) (w32 : Bool) (r : Reg) : Dword := if w32 then s.reg r else (s.reg16 r).setWidth 32

/-- Writes a register at the operand size; a 16-bit write leaves bits 31..16. -/
def State.setRegW (s : State) (w32 : Bool) (r : Reg) (v : Dword) : State :=
  if w32 then s.setReg r v else s.setReg16 r (v.setWidth 16)

/-! Segment registers. -/

/-- A segment register. -/
def Segs.get (g : Segs) : SReg → SegReg
  | .es => g.es | .cs => g.cs | .ss => g.ss | .ds => g.ds | .fs => g.fs | .gs => g.gs

/-- The segment registers with one written. -/
def Segs.set (g : Segs) (x : SReg) (v : SegReg) : Segs :=
  match x with
  | .es => { g with es := v } | .cs => { g with cs := v } | .ss => { g with ss := v }
  | .ds => { g with ds := v } | .fs => { g with fs := v } | .gs => { g with gs := v }

/-- A segment register. -/
def State.seg (s : State) (r : SReg) : SegReg := s.segs.get r

/-- The selector of a segment register. -/
def State.sel (s : State) (r : SReg) : Word := (s.segs.get r).sel

/-- Writes a segment register. -/
def State.setSeg (s : State) (r : SReg) (v : SegReg) : State := { s with segs := s.segs.set r v }

/-- What the 8086 rule makes of a selector: base = selector shifted left by four bits, limit FFFFH (R15, R41, R49). -/
def seg8086 (sel : Word) : SegReg :=
  { sel := sel, base := sel.setWidth 32 <<< 4, limit := 0xFFFF, usable := true, big := false }

/-- What a null selector makes of a data segment register in protected mode (R205, log 7). -/
def nullSeg (sel : Word) : SegReg := { sel := sel, base := 0, limit := 0, usable := false, big := false }

/-- What a descriptor makes of a segment register (log 21). -/
def descSeg (sel : Word) (d : SegDesc) : SegReg :=
  { sel := sel, base := d.base, limit := d.limit, usable := true, big := d.big }

/-- The descriptor of a selector: the entry with the same index and table, whatever the selector's low two bits (R213). The
table stands for the GDT and the LDT at once: GDTR and LDTR are not consulted, so a selector of the LDT names the same
descriptor in every task (R3 and R28 say where descriptors lie and no more; DESIGN CHOICE, log 14). -/
def State.desc (s : State) (sel : Word) : Option Desc :=
  (s.descriptors.find? fun e => e.sel &&& 0xFFFC == sel &&& 0xFFFC).map (·.desc)

/-- `CodeSegOf` and `Ss0Base`: the segment descriptor of a selector (00_scope section 4). -/
def State.segDesc (s : State) (sel : Word) : Option SegDesc :=
  match s.desc sel with
  | some (.seg d) => some d
  | _ => none

/-- The TSS descriptor of a selector. -/
def State.tssDesc (s : State) (sel : Word) : Option TssDesc :=
  match s.desc sel with
  | some (.tss d) => some d
  | _ => none

/-- Whether a descriptor may be loaded into a segment register at a CPL under a selector's RPL (log 21): for SS data with
RPL = DPL = CPL; for CS code, conforming with DPL not above CPL or else DPL = CPL; for the others DPL not below CPL and RPL.
Whether SS's data is writable and the others' code readable is not asked (log 56). -/
def descFits (r : SReg) (d : SegDesc) (cpl rpl : BitVec 2) : Bool :=
  match r with
  | .ss => !d.code && rpl == cpl && d.dpl == cpl
  | .cs => d.code && (if d.conforming then decide (d.dpl ≤ cpl) else d.dpl == cpl)
  | _ => decide (cpl ≤ d.dpl) && decide (rpl ≤ d.dpl)

/-- Loads a segment register from a descriptor, in protected mode (R208, log 21): a null selector makes a data segment
register unusable; else a descriptor that may be loaded must be given. -/
def loadSegProtected (s : State) (r : SReg) (sel : Word) : M State :=
  if sel &&& 0xFFFC = 0 then
    if r = .ss ∨ r = .cs then refusing .descriptorLoad else .ok (s.setSeg r (nullSeg sel))
  else
    match s.segDesc sel with
    | none => refusing .descriptorLoad
    | some d =>
      if descFits r d s.cpl (sel.extractLsb' 0 2) then .ok (s.setSeg r (descSeg sel d)) else refusing .descriptorLoad

/-- Loads a segment register: by the 8086 rule while VM is 1, with no descriptor and no fault (R49), and in real-address mode
(R5, log 17); from the descriptor in protected mode. -/
def loadSeg (s : State) (r : SReg) (sel : Word) : M State :=
  match s.mode with
  | .prot => loadSegProtected s r sel
  | _ => .ok (s.setSeg r (seg8086 sel))

/-! Operand size, address size, the stack's width. -/

/-- The default size of code is 32 bits in a 32-bit protected-mode code segment, else 16 (R72, R73, R203). -/
def State.code32 (s : State) : Bool := s.mode == .prot && s.segs.cs.big

/-- The operand size is 32: the default, inverted by the prefix byte 66 (R72). -/
def State.op32 (s : State) : Bool := s.code32 ^^ s.pfx.opSize

/-- The address size is 32: the default, inverted by the prefix byte 67 (R73). -/
def State.addr32 (s : State) : Bool := s.code32 ^^ s.pfx.addrSize

/-- W / 8, the operand size in bytes. -/
def State.opBytes (s : State) : Nat := if s.op32 then 4 else 2

/-- The stack pointer is ESP on a 32-bit protected-mode stack, else SP (R13, R107). -/
def State.stack32 (s : State) : Bool := s.mode == .prot && s.segs.ss.big

/-- The stack pointer, zero-extended. -/
def State.stackPtr (s : State) : Dword := s.regW s.stack32 .esp

/-- Writes the stack pointer. -/
def State.setStackPtr (s : State) (v : Dword) : State := s.setRegW s.stack32 .esp v

/-! Physical memory. -/

/-- The byte at a physical address. -/
def Memory.read : Memory → Nat → Byte
  | [], _ => unlistedByte
  | (b, v) :: m, a => if b = a then v else Memory.read m a

/-- Memory with one byte written, in the canonical form. -/
def Memory.write : Memory → Nat → Byte → Memory
  | [], a, v => if v = unlistedByte then [] else [(a, v)]
  | (b, w) :: m, a, v =>
    if a < b then if v = unlistedByte then (b, w) :: m else (a, v) :: (b, w) :: m
    else if a = b then if v = unlistedByte then m else (a, v) :: m
    else (b, w) :: Memory.write m a v

/-- The value of the bytes at physical addresses, the first the lowest-order byte (R55). -/
def Memory.readAll (m : Memory) : List Nat → Dword
  | [] => 0
  | a :: as => (Memory.readAll m as <<< 8) ||| (m.read a).setWidth 32

/-- Memory with a value's bytes written at physical addresses, the lowest-order byte first (R55). -/
def Memory.writeAll (m : Memory) : List Nat → Dword → Memory
  | [], _ => m
  | a :: as, v => Memory.writeAll (m.write a (v.setWidth 8)) as (v >>> 8)

/-! Translation and linear accesses. -/

/-- `Translate` (R44, R51, D16): the identity when paging is off; else by the page entries under CR3. A page that is not
listed is not present; a listed one may forbid the access. -/
def linToPhys (s : State) (la : Dword) (k : Access) (p : Priv) : M Dword :=
  if s.pg then
    match s.pageMap.find? fun e => e.cr3 == s.ctrl.cr3 && e.page == la.extractLsb' 12 20 with
    | none => raising (excPF la false k p)
    | some e =>
      if e.allowed.contains (k, p) then .ok (e.frame ++ la.extractLsb' 0 12) else raising (excPF la true k p)
  else .ok la

/-- The physical addresses of `n` bytes from a linear address up: all are translated before any is used (R63). -/
def physAddrs (s : State) (k : Access) (p : Priv) (la : Dword) : Nat → M (List Nat)
  | 0 => .ok []
  | n + 1 => do
    let pa ← linToPhys s la k p
    let rest ← physAddrs s k p (la + 1) n
    .ok (pa.toNat :: rest)

/-- `LinRead` (R63): `n` bytes as a zero-extended value. -/
def linRead (s : State) (la : Dword) (n : Nat) (p : Priv) : M Dword := do
  let pas ← physAddrs s .read p la n
  .ok (s.mem.readAll pas)

/-- Memory written at physical addresses, which R60 remembers. -/
def State.storeAt (s : State) (pas : List Nat) (v : Dword) : State :=
  { s with mem := s.mem.writeAll pas v, written := pas ++ s.written }

/-- `LinWrite` (R63): `n` bytes of a value. -/
def linWrite (s : State) (la : Dword) (n : Nat) (v : Dword) (p : Priv) : M State := do
  let pas ← physAddrs s .write p la n
  .ok (s.storeAt pas v)

/-! Accesses through a segment. -/

/-- The privilege of an instruction's accesses: user in V86 mode (R51) and at CPL 3, else supervisor. -/
def State.priv (s : State) : Priv := if s.vm ∨ s.cpl = 3 then .user else .supervisor

/-- The access of `n` bytes at an offset lies inside the segment: offsets 0 to FFFFH in V86 mode and real-address mode (R45,
R46), the hidden limit of a usable segment in protected mode (log 19), whatever the kind of access and the segment's type
(log 56). Computed on unbounded integers. -/
def State.inSegment (s : State) (r : SReg) (off : Dword) (n : Nat) : Bool :=
  match s.mode with
  | .prot => (s.seg r).usable && decide (off.toNat + n ≤ (s.seg r).limit.toNat + 1)
  | _ => decide (off.toNat + n ≤ 0x10000)

/-- The exception of an access outside its segment: #SS(0) through SS, #GP(0) otherwise (R48). -/
def offsetExc (r : SReg) : Exc := if r = .ss then excSS0 else excGP0

/-- `CheckOff` (R63). -/
def checkOff (s : State) (r : SReg) (off : Dword) (n : Nat) : M Unit :=
  if s.inSegment r off n then .ok () else raising (offsetExc r)

/-- `Lin` (R41): the hidden base plus the offset, 32 bits, no truncation of the carry out of bit 19 (R42). -/
def State.lin (s : State) (r : SReg) (off : Dword) : Dword := (s.seg r).base + off

/-- D17 rules out a misaligned access at CPL 3 with CR0.AM = 1 and EFLAGS.AC = 1 (R56): such a run is refused. -/
def State.alignmentTrap (s : State) (la : Dword) (n : Nat) : Bool :=
  s.ctrl.cr0.getLsbD 18 && s.eflags.ac && s.priv == .user && decide (la.toNat % n ≠ 0)

/-- The alignment premise of an access. -/
def checkAlign (s : State) (la : Dword) (n : Nat) : M Unit :=
  if s.alignmentTrap la n then refusing .alignmentCheck else .ok ()

/-- `MemRead` (R63). -/
def memRead (s : State) (r : SReg) (off : Dword) (n : Nat) : M Dword := do
  checkOff s r off n
  checkAlign s (s.lin r off) n
  linRead s (s.lin r off) n s.priv

/-- `MemWrite` (R63). In protected mode no segment's type forbids it, CS among them (DESIGN CHOICE, log 56). -/
def memWrite (s : State) (r : SReg) (off : Dword) (n : Nat) (v : Dword) : M State := do
  checkOff s r off n
  checkAlign s (s.lin r off) n
  linWrite s (s.lin r off) n v s.priv

/-! The stack. -/

/-- The offset of an item of `n` bytes pushed next: modulo 2^16, or 2^32 on a 32-bit stack (R160). -/
def State.pushOff (s : State) (n : Nat) : Dword :=
  if s.stack32 then s.reg .esp - BitVec.ofNat 32 n else (s.reg16 .esp - BitVec.ofNat 16 n).setWidth 32

/-- `Push16` and `Push32`: check and write first, then the stack pointer (R160). -/
def push (s : State) (n : Nat) (v : Dword) : M State := do
  let t ← memWrite s .ss (s.pushOff n) n v
  .ok (t.setStackPtr (s.pushOff n))

/-- `Pop16` and `Pop32`: the value and the state with the stack pointer moved (R104). -/
def pop (s : State) (n : Nat) : M (Dword × State) := do
  let v ← memRead s .ss s.stackPtr n
  .ok (v, s.setStackPtr (s.stackPtr + BitVec.ofNat 32 n))

/-! Ports. -/

/-- The 16-bit offset of the I/O permission bitmap in the TSS is at 66H (R26, R120). -/
def ioMapBaseAt : Nat := 0x66

/-- `IoBit` (R120): 1 denies. Two bytes of the bitmap are read for each check, and it is 1 too when the map base or one of the
two bytes lies beyond the limit (U24), and for an 80286 TSS, which has no bitmap (DEDUCED, log 42). A page fault of the read of the map base at 66H, or of either byte of the
bitmap, is the instruction's own (PRESUMED, log 42). -/
def ioBit (s : State) (p : Nat) : M Bool :=
  if s.tr.is286 ∨ s.tr.limit.toNat < ioMapBaseAt + 1 then .ok true
  else do
    let b ← linRead s (s.tr.base + BitVec.ofNat 32 ioMapBaseAt) 2 .supervisor
    let at' := b.toNat + p / 8
    if s.tr.limit.toNat < at' + 1 then .ok true
    else do
      let v ← linRead s (s.tr.base + BitVec.ofNat 32 at') 2 .supervisor
      .ok (v.getLsbD (p % 8))

/-- Each of `n` ports from `p` up must exist and its bit must be 0, else #GP(0) (R120). -/
def ioCheckFrom (s : State) (p : Nat) : Nat → M Unit
  | 0 => .ok ()
  | n + 1 =>
    if 0xFFFF < p then raising excGP0
    else do
      let b ← ioBit s p
      if b then raising excGP0 else ioCheckFrom s (p + 1) n

/-- `IoCheck` (R120): in V86 mode whatever IOPL is; in protected mode only when CPL exceeds IOPL (log 19); none in
real-address mode (log 17). -/
def ioCheck (s : State) (port : Word) (n : Nat) : M Unit :=
  match s.mode with
  | .v86 => ioCheckFrom s port.toNat n
  | .prot => if s.iopl < s.cpl then ioCheckFrom s port.toNat n else .ok ()
  | .real => .ok ()

/-- The low `n` bytes of a doubleword. -/
def lowBytes (n : Nat) (v : Dword) : Dword := (v.setWidth (8 * n)).setWidth 32

/-- What `IoRead(port, n)` answers now: a free value (R134, D30, U22). -/
def State.ioValue (s : State) (port : Word) (n : Nat) : Dword := lowBytes n (Config.ioAnswer s.draws port n)

/-- `IoRead(port, n)` made: the access is recorded and the draw counted. -/
def State.ioReadDone (s : State) (port : Word) (n : Nat) : State :=
  { s with ioTrace := .input port n (s.ioValue port n) :: s.ioTrace, draws := s.draws + 1 }

/-- `IoWrite(port, n, v)`: no effect on the processor or memory (D30); the access is recorded. -/
def State.ioWrite (s : State) (port : Word) (n : Nat) (v : Dword) : State :=
  { s with ioTrace := .output port n (lowBytes n v) :: s.ioTrace }

/-! Ending an instruction. -/

/-- Before an instruction's effects: the shadow of the instruction before it ends with this one (R33, D22). -/
def State.begin (s : State) : State := { s with intShadow := false, ssShadow := false }

/-- The state at the next instruction boundary with EIP given: the prefix bytes are used up, and a single-step trap is
pending when the instruction began with TF = 1 (R215). `s` is the state the instruction began in, `t` its effects. -/
def retireAt (s t : State) (eip : Dword) : State :=
  { t with eip := eip, ilen := 0, pfx := Pfx.none, iterating := none, trapPending := s.trapPending || s.eflags.tf }

/-- The same with EIP advanced by the instruction's length (R17): on to 10000H after an instruction whose last byte is at offset
FFFFH, as R47 says. -/
def retire (s t : State) : State := retireAt s t (s.eip + BitVec.ofNat 32 s.ilen)

/-- A control transfer was executed: R60 forgets the addresses written (D14). -/
def State.transferred (s : State) : State := { s with written := [] }

/-! Delivery of an interrupt or exception (R203). -/

/-- What is delivered: the vector, the error code, whether the event is external to the program (R213), the EIP to save
(R212; it may be 10000H, log 57), and whether the delivery completes an instruction that began with TF = 1, which leaves a single-step trap pending
(R215, log 23). -/
structure Event where
  vector : Byte
  err : Option Dword
  ext : Bool
  ret : Dword
  trap : Bool
deriving DecidableEq, Repr

/-- The kinds of IDT entry (R202). -/
inductive GateKind where
  | task | trap32 | int32 | other
deriving DecidableEq, Repr

/-- An IDT entry (R27). -/
structure Gate where
  kind : GateKind
  sel : Word
  offset : Dword
  dpl : BitVec 2
  present : Bool
deriving DecidableEq, Repr

/-- The kind of a gate by bits 4:0 of its byte 5: 14 interrupt gate, 15 trap gate (C4, D7), 5 task gate (log 16). -/
def gateKind (b : BitVec 5) : GateKind :=
  if b = 5 then .task else if b = 14 then .int32 else if b = 15 then .trap32 else .other

/-- The gate that two doublewords of the IDT hold (R27). -/
def gateOf (lo hi : Dword) : Gate :=
  { kind := gateKind (hi.extractLsb' 8 5)
    sel := lo.extractLsb' 16 16
    offset := hi.extractLsb' 16 16 ++ lo.extractLsb' 0 16
    dpl := hi.extractLsb' 13 2
    present := hi.getLsbD 15 }

/-- An operation that fails inside delivery is refused, whatever the failure (R231, D35). -/
def insideDelivery {α : Type} (r : M α) : M α :=
  match r with
  | .ok a => .ok a
  | .error _ => refusing .deliveryFailure

/-- `Idt(v)`: the gate at IDTR.base + 8v, inside IDTR's limit (R27). -/
def readGate (s : State) (v : Byte) : M Gate :=
  if s.idtr.limit.toNat < 8 * v.toNat + 7 then refusing .deliveryFailure
  else insideDelivery do
    let lo ← linRead s (s.idtr.base + BitVec.ofNat 32 (8 * v.toNat)) 4 .supervisor
    let hi ← linRead s (s.idtr.base + BitVec.ofNat 32 (8 * v.toNat + 4)) 4 .supervisor
    .ok (gateOf lo hi)

/-- A field of the current 32-bit TSS (R26). -/
def readTss (s : State) (at' n : Nat) : M Dword :=
  if s.tr.limit.toNat < at' + n - 1 then refusing .deliveryFailure
  else linRead s (s.tr.base + BitVec.ofNat 32 at') n .supervisor

/-- The doublewords of the frame, in the order in which they are pushed (R203, R204). -/
def frameWords (s : State) (ev : Event) : List Dword :=
  [ (s.sel .gs).setWidth 32, (s.sel .fs).setWidth 32, (s.sel .ds).setWidth 32, (s.sel .es).setWidth 32,
    (s.sel .ss).setWidth 32, s.reg .esp, s.eflags.word, (s.sel .cs).setWidth 32, ev.ret ] ++ ev.err.toList

/-- `push32` of each doubleword on the privilege-level-0 stack (R203): the state with memory written, and ESP after it. -/
def pushFrame (s : State) (stack : SegDesc) (esp : Dword) : List Dword → M (State × Dword)
  | [] => .ok (s, esp)
  | v :: vs => do
    let esp' := esp - 4
    if stack.limit.toNat < esp'.toNat + 3 then refusing .deliveryFailure
    else do
      let t ← linWrite s (stack.base + esp') 4 v .supervisor
      pushFrame t stack esp' vs

/-- The state at the handler's first instruction, after the frame is pushed (R203, R205, R222). The shadow and the halt of
the interrupted program end (log 41), and so does a repeated instruction between two iterations, to which the saved EIP points
(R133); a single-step trap that is pending stays so, and `trap` adds one (R215, log 23). -/
def handlerState (s : State) (trap : Bool) (g : Gate) (code : SegDesc) (ss0 : Word) (stack : SegDesc) (esp : Dword) : State :=
  { s with
    regs := s.regs.set .esp esp
    segs := { cs := descSeg g.sel code, ss := descSeg ss0 stack, ds := nullSeg 0, es := nullSeg 0, fs := nullSeg 0,
              gs := nullSeg 0 }
    eip := g.offset
    eflags := entryFlags s.eflags (g.kind == .int32)
    cpl := 0
    trapPending := s.trapPending || trap
    intShadow := false
    ssShadow := false
    halted := false
    written := []
    ilen := 0
    pfx := Pfx.none
    iterating := none }

/-- SS0 of the TSS is valid (R231): not null, data, with RPL and DPL 0 (what makes it valid is PRESUMED, log 46). -/
def validStack (ss0 : Word) (stack : SegDesc) : Bool :=
  ss0 &&& 0xFFFC != 0 && descFits .ss stack 0 (ss0.extractLsb' 0 2)

/-- Entry through a trap or interrupt gate whose target passed the checks: SS:ESP from the TSS, the frame, the handler's state
(R203). An invalid SS0 is a failure of delivery (R231). -/
def enterHandler (s : State) (ev : Event) (g : Gate) (code : SegDesc) : M State :=
  insideDelivery do
    if s.tr.is286 then refusing .deliveryFailure
    else do
      let esp0 ← readTss s 0x04 4
      let ss0 ← readTss s 0x08 2
      match s.segDesc (ss0.setWidth 16) with
      | none => refusing .deliveryFailure
      | some stack =>
        if validStack (ss0.setWidth 16) stack then do
          let (t, esp) ← pushFrame s stack esp0 (frameWords s ev)
          .ok (handlerState t ev.trap g code (ss0.setWidth 16) stack esp)
        else refusing .deliveryFailure

/-! The task switch (R207, R208). -/

/-- A field of the TSS at a linear base (R26), translated under the CR3 of the outgoing task (DESIGN CHOICE, log 22). -/
def tssField (s : State) (d : TssDesc) (at' n : Nat) : M Dword :=
  linRead s (d.base + BitVec.ofNat 32 at') n .supervisor

/-- The fields of the outgoing task and their places in its 32-bit TSS (R26): EIP, EFLAGS, the general registers, the
selectors. -/
def savedFields32 (s : State) (eip : Dword) : List (Nat × Nat × Dword) :=
  [ (0x20, 4, eip), (0x24, 4, s.eflags.word), (0x28, 4, s.reg .eax), (0x2C, 4, s.reg .ecx), (0x30, 4, s.reg .edx),
    (0x34, 4, s.reg .ebx), (0x38, 4, s.reg .esp), (0x3C, 4, s.reg .ebp), (0x40, 4, s.reg .esi), (0x44, 4, s.reg .edi),
    (0x48, 2, (s.sel .es).setWidth 32), (0x4C, 2, (s.sel .cs).setWidth 32), (0x50, 2, (s.sel .ss).setWidth 32),
    (0x54, 2, (s.sel .ds).setWidth 32), (0x58, 2, (s.sel .fs).setWidth 32), (0x5C, 2, (s.sel .gs).setWidth 32) ]

/-- The same in an 80286 TSS, which holds 16-bit fields, no FS and no GS (R26; layout PRESUMED, log 44). -/
def savedFields16 (s : State) (eip : Dword) : List (Nat × Nat × Dword) :=
  [ (0x0E, 2, eip), (0x10, 2, s.eflags.word), (0x12, 2, s.reg .eax), (0x14, 2, s.reg .ecx), (0x16, 2, s.reg .edx),
    (0x18, 2, s.reg .ebx), (0x1A, 2, s.reg .esp), (0x1C, 2, s.reg .ebp), (0x1E, 2, s.reg .esi), (0x20, 2, s.reg .edi),
    (0x22, 2, (s.sel .es).setWidth 32), (0x24, 2, (s.sel .cs).setWidth 32), (0x26, 2, (s.sel .ss).setWidth 32),
    (0x28, 2, (s.sel .ds).setWidth 32) ]

/-- The fields of the outgoing task, in the TSS that TR names. -/
def savedFields (s : State) (eip : Dword) : List (Nat × Nat × Dword) :=
  if s.tr.is286 then savedFields16 s eip else savedFields32 s eip

/-- Writes fields of the current TSS. -/
def writeTssFields (s : State) : List (Nat × Nat × Dword) → M State
  | [] => .ok s
  | (at', n, v) :: rest => do
    let t ← linWrite s (s.tr.base + BitVec.ofNat 32 at') n v .supervisor
    writeTssFields t rest

/-- Loads a segment register of the incoming task, after its EFLAGS: by the 8086 rule when VM is 1, else from the descriptor
(R208). -/
def loadTaskSeg (s : State) (r : SReg) (sel : Word) : M State :=
  if s.vm then .ok (s.setSeg r (seg8086 sel)) else loadSegProtected s r sel

/-- Loads the segment registers of the incoming task, in their order. -/
def loadTaskSegs (s : State) : List (SReg × Word) → M State
  | [] => .ok s
  | (r, sel) :: rest => do
    let t ← loadTaskSeg s r sel
    loadTaskSegs t rest

/-- The smallest limit of a TSS: the last field of R26 ends at 67H, that of an 80286 TSS at 2BH (log 44). -/
def tssLimit (is286 : Bool) : Nat := if is286 then 0x2B else 0x67

/-- The state with the incoming task's registers, before its segment registers: EFLAGS first, VM included (R208); CPL is 3
when VM is 1, else the low two bits of the CS image (log 22). An EIP image above FFFFH with VM = 1 is refused (R252). -/
def loadTaskRegs32 (s : State) (d : TssDesc) : M State := do
  let cr3 ← tssField s d 0x1C 4
  let eip ← tssField s d 0x20 4
  let fl ← tssField s d 0x24 4
  let eax ← tssField s d 0x28 4
  let ecx ← tssField s d 0x2C 4
  let edx ← tssField s d 0x30 4
  let ebx ← tssField s d 0x34 4
  let esp ← tssField s d 0x38 4
  let ebp ← tssField s d 0x3C 4
  let esi ← tssField s d 0x40 4
  let edi ← tssField s d 0x44 4
  let cs ← tssField s d 0x4C 2
  let ldt ← tssField s d 0x60 2
  if (Eflags.ofWord fl).vm && decide (0xFFFF < eip.toNat) then refusing .v86EntryEip
  else
    .ok { s with
        regs := { eax := eax, ecx := ecx, edx := edx, ebx := ebx, esp := esp, ebp := ebp, esi := esi, edi := edi }
        eip := eip
        eflags := Eflags.ofWord fl
        cpl := if (Eflags.ofWord fl).vm then 3 else cs.extractLsb' 0 2
        ctrl := { s.ctrl with cr3 := cr3 }
        ldtr := ldt.setWidth 16 }

/-- The same from an 80286 TSS: EFLAGS[15:0] from the image, EFLAGS[31:16] 0, so VM is 0 (R208). The upper halves of the
general registers are free values (log 44). -/
def loadTaskRegs16 (s : State) (d : TssDesc) : M State := do
  let ip ← tssField s d 0x0E 2
  let fl ← tssField s d 0x10 2
  let ax ← tssField s d 0x12 2
  let cx ← tssField s d 0x14 2
  let dx ← tssField s d 0x16 2
  let bx ← tssField s d 0x18 2
  let sp ← tssField s d 0x1A 2
  let bp ← tssField s d 0x1C 2
  let si ← tssField s d 0x1E 2
  let di ← tssField s d 0x20 2
  let cs ← tssField s d 0x24 2
  let ldt ← tssField s d 0x2A 2
  let wide (k : Nat) (v : Dword) : Dword := Config.drawWord (s.draws + k) ++ v.setWidth 16
  .ok { s with
        regs := { eax := wide 0 ax, ecx := wide 1 cx, edx := wide 2 dx, ebx := wide 3 bx
                  esp := wide 4 sp, ebp := wide 5 bp, esi := wide 6 si, edi := wide 7 di }
        draws := s.draws + 8
        eip := ip
        eflags := Eflags.ofWord fl
        cpl := cs.extractLsb' 0 2
        ldtr := ldt.setWidth 16 }

/-- The selectors of the incoming task, in R208's order. -/
def taskSelectors32 (s : State) (d : TssDesc) : M (List (SReg × Word)) := do
  let es ← tssField s d 0x48 2
  let cs ← tssField s d 0x4C 2
  let ss ← tssField s d 0x50 2
  let ds ← tssField s d 0x54 2
  let fs ← tssField s d 0x58 2
  let gs ← tssField s d 0x5C 2
  .ok [(.es, es.setWidth 16), (.cs, cs.setWidth 16), (.ss, ss.setWidth 16), (.ds, ds.setWidth 16), (.fs, fs.setWidth 16),
       (.gs, gs.setWidth 16)]

/-- The same from an 80286 TSS; FS and GS become null (PRESUMED, log 44). -/
def taskSelectors16 (s : State) (d : TssDesc) : M (List (SReg × Word)) := do
  let es ← tssField s d 0x22 2
  let cs ← tssField s d 0x24 2
  let ss ← tssField s d 0x26 2
  let ds ← tssField s d 0x28 2
  .ok [(.es, es.setWidth 16), (.cs, cs.setWidth 16), (.ss, ss.setWidth 16), (.ds, ds.setWidth 16), (.fs, 0), (.gs, 0)]

/-- The incoming task's registers but the segment registers. -/
def loadTaskImage (s : State) (d : TssDesc) : M State := if d.is286 then loadTaskRegs16 s d else loadTaskRegs32 s d

/-- The same, and TR. -/
def loadTaskRegs (s : State) (sel : Word) (d : TssDesc) : M State := do
  let t ← loadTaskImage s d
  .ok { t with tr := { sel := sel, base := d.base, limit := d.limit, is286 := d.is286 } }

/-- The selectors of the incoming task. -/
def taskSelectors (s : State) (d : TssDesc) : M (List (SReg × Word)) :=
  if d.is286 then taskSelectors16 s d else taskSelectors32 s d

/-- An operation that fails inside a task switch is refused, but for a refusal of its own name (N17). -/
def insideSwitch {α : Type} (r : M α) : M α :=
  match r with
  | .ok a => .ok a
  | .error (.refuse e) => refusing e
  | .error (.exc _) => refusing .taskSwitch

/-- The task switch to the TSS of a selector (R207, R208): the outgoing task is saved in its own TSS with `eip`; the incoming
one is loaded from its TSS. What it leaves out, the T bit of the incoming TSS (R26) among it, is the model's choice (DESIGN
CHOICE, log 22). -/
def taskSwitch (s : State) (sel : Word) (eip : Dword) : M State :=
  match s.tssDesc sel with
  | none => refusing .taskSwitch
  | some d =>
    if d.limit.toNat < tssLimit d.is286 ∨ s.tr.limit.toNat < tssLimit s.tr.is286 then refusing .taskSwitch
    else insideSwitch do
      let saved ← writeTssFields s (savedFields s eip)
      let sels ← taskSelectors saved d
      let t ← loadTaskRegs saved sel d
      let u ← loadTaskSegs t sels
      .ok { u with
            intShadow := false, ssShadow := false, halted := false, written := [], ilen := 0, pfx := Pfx.none
            iterating := none }

/-! Delivery, continued. -/

/-- The result of one attempt at delivery. -/
inductive Delivered where
  | done (s : State)
  /-- the gate's target fails the check of R206. -/
  | badTarget (sel : Word)
  | refuse (r : Refusal)
deriving DecidableEq, Repr

/-- An operation's result as a result of delivery; an exception inside delivery is a failure of it (R231). -/
def Delivered.of : M State → Delivered
  | .ok s => .done s
  | .error (.refuse r) => .refuse r
  | .error (.exc _) => .refuse .deliveryFailure

/-- Delivery through a task gate (R207), with the single-step trap of the instruction that it completes (R215, log 23). -/
def enterTask (s : State) (ev : Event) (g : Gate) : M State := do
  let t ← taskSwitch s g.sel ev.ret
  .ok { t with trapPending := t.trapPending || ev.trap }

/-- The target of a trap or interrupt gate when it passes the check of R206: a nonconforming code segment of privilege level 0
(R200, R202). A target that is not present is one without a descriptor, and fails the check (DESIGN CHOICE, log 14). -/
def State.gateTarget (s : State) (g : Gate) : Option SegDesc :=
  match s.segDesc g.sel with
  | some t => if t.code && !t.conforming && t.dpl == 0 then some t else none
  | none => none

/-- Delivery through a gate (R203, R206, R207). -/
def deliverGate (s : State) (ev : Event) (g : Gate) : Delivered :=
  if g.present then
    match g.kind with
    | .task => Delivered.of (enterTask s ev g)
    | .other => .refuse .gateKind
    | _ =>
      match s.gateTarget g with
      | none => .badTarget g.sel
      | some t => Delivered.of (enterHandler s ev g t)
  else .refuse .deliveryFailure

/-- One attempt at delivery in V86 mode, through `Idt(v)`. -/
def deliverOnce (s : State) (ev : Event) : Delivered :=
  match readGate s ev.vector with
  | .error (.refuse r) => .refuse r
  | .error (.exc _) => .refuse .deliveryFailure
  | .ok g => deliverGate s ev g

/-- The #GP of a gate whose target is no nonconforming code segment of privilege level 0 (R200, R206): the selector with its
two low bits cleared, bit 0 set when the event was external; a fault that saves the V86 program's CS:EIP (log 31). The event
itself is not delivered later: an external request, NMI, trap or floating-point error is no longer pending (DESIGN CHOICE, log
53). -/
def badTargetEvent (s : State) (ev : Event) (sel : Word) : Event :=
  { vector := 13
    err := some ((sel &&& 0xFFFC).setWidth 32 ||| (if ev.ext then 1 else 0))
    ext := ev.ext
    ret := s.eip
    trap := false }

/-- Delivery in V86 mode (R203). The #GP of R206 is delivered once; if that fails too, the model refuses (R231). -/
def deliverV86 (s : State) (ev : Event) : Out :=
  match deliverOnce s ev with
  | .done t => .next t
  | .refuse r => .refused r
  | .badTarget sel =>
    match deliverOnce s (badTargetEvent s ev sel) with
    | .done t => .next t
    | .refuse r => .refused r
    | .badTarget _ => .refused .deliveryFailure

/-- The pushes of an 8086 interrupt: FLAGS, CS, IP (R220 step 2, log 18). -/
def pushReal (s : State) (ret : Dword) : M State := do
  let s1 ← push s 2 (pushf16Image s.eflags)
  let s2 ← push s1 2 ((s.sel .cs).setWidth 32)
  push s2 2 (ret &&& 0xFFFF)

/-- Delivery in real-address mode through the 8086 interrupt table at IDTR.base: FLAGS, CS and IP pushed, IF and TF cleared,
no error code (R54, R220, C5; PRESUMED, log 18). -/
def deliverReal (s : State) (ev : Event) : Out :=
  if s.idtr.limit.toNat < 4 * ev.vector.toNat + 3 then .refused .deliveryFailure
  else
    match (do
      let ip ← linRead s (s.idtr.base + BitVec.ofNat 32 (4 * ev.vector.toNat)) 2 .supervisor
      let cs ← linRead s (s.idtr.base + BitVec.ofNat 32 (4 * ev.vector.toNat + 2)) 2 .supervisor
      let t ← pushReal s ev.ret
      .ok (ip, cs, t) : M (Dword × Dword × State)) with
    | .error _ => .refused .deliveryFailure
    | .ok (ip, cs, t) =>
      .next { t with
              segs := t.segs.set .cs (seg8086 (cs.setWidth 16))
              eip := ip
              eflags := { t.eflags with intf := false, tf := false }
              trapPending := t.trapPending || ev.trap, intShadow := false, ssShadow := false, halted := false, written := []
              ilen := 0, pfx := Pfx.none, iterating := none }

/-- TAKING AN EXCEPTION OR AN INTERRUPT: the one operation by which every event is delivered. In V86 mode R203; in
real-address mode log 18; in protected mode by rules that are not in the spec (R218). -/
def deliver (s : State) (ev : Event) : Out :=
  match s.mode with
  | .v86 => deliverV86 s ev
  | .real => deliverReal s ev
  | .prot => .refused .protectedEvent

/-- `raise` (00_scope section 5): the exception is delivered from the state in which the instruction began, with the saved
CS:EIP at its first prefix byte (R212); a page fault leaves its address in CR2 (R232). -/
def raise (s : State) (e : Exc) : Out :=
  deliver (match e.cr2 with
    | some la => { s with ctrl := { s.ctrl with cr2 := la } }
    | none => s)
    { vector := e.vector, err := e.err, ext := false, ret := s.eip, trap := false }

/-- The outcome of an instruction that stopped, from the state in which it began. -/
def stopped (s : State) : Stop → Out
  | .exc e => raise s e
  | .refuse r => .refused r

/-- The outcome of an instruction begun in `s`. -/
def finish (s : State) : M State → Out
  | .ok t => .next t
  | .error e => stopped s e

/-- The software interrupt INT n (R105, R203): the gate's DPL must be 3, else #GP(8n + 2) (D26); the saved EIP is that of the
next instruction, 10000H after an INT n whose last byte is at offset FFFFH (DEDUCED from R17 and R47, log 57). It completes
without a fault, so with TF = 1 a single-step trap is pending after it (R215, log 23). -/
def softInterrupt (s : State) (n : Byte) : Out :=
  let ev : Event := { vector := n, err := none, ext := false, ret := s.eip + BitVec.ofNat 32 s.ilen, trap := s.eflags.tf }
  match s.mode with
  | .v86 =>
    match readGate s n with
    | .error e => stopped s e
    | .ok g => if g.dpl < 3 then raise s (excGP (BitVec.ofNat 32 (8 * n.toNat + 2))) else deliver s ev
  | _ => deliver s ev

/-! The frame of a meaning. -/

/-- The LOCK prefix byte (R190): legal only before an instruction that may carry it and writes memory, else #UD; before that,
#GP(0) in V86 mode with IOPL below 3 on the reading `LOCK_IOPL_SENSITIVE` (R110). -/
def lockGuard (s : State) (lockable : Bool) : M Unit :=
  if s.pfx.lock then
    if s.vm && decide (s.iopl < 3) && Config.lockIoplSensitive then raising excGP0
    else if lockable then .ok () else raising excUD
  else .ok ()

/-- An instruction that goes on to the next one: the LOCK check, its effects, EIP advanced. -/
def run (s : State) (lockable : Bool) (body : State → M State) : Out :=
  finish s do
    lockGuard s lockable
    let t ← body s.begin
    .ok (retire s t)

/-- An instruction that transfers control: its effects set EIP. -/
def runJump (s : State) (body : State → M State) : Out :=
  finish s do
    lockGuard s false
    let t ← body s.begin
    .ok (retireAt s t.transferred t.eip)

/-- V86 mode: IOPL-sensitive instructions need IOPL = 3 (R100); real-address mode and protected mode do not ask. -/
def sensitive (s : State) : M Unit :=
  if s.vm && decide (s.iopl < 3) then raising excGP0 else .ok ()

/-- CLI and STI are sensitive to IOPL in protected mode as well: CPL must not exceed IOPL (R100, log 19). -/
def sensitiveIf (s : State) : M Unit :=
  match s.mode with
  | .prot => if s.iopl < s.cpl then raising excGP0 else .ok ()
  | _ => sensitive s

/-- A privileged instruction runs in real-address mode and at CPL 0 (R155); else #GP(0) (R140). -/
def privileged (s : State) : M Unit :=
  match s.mode with
  | .real => .ok ()
  | .prot => if s.cpl = 0 then .ok () else raising excGP0
  | .v86 => raising excGP0

/-! Loading flags. -/

/-- POPF and IRET load IF here: always but in protected mode with CPL above IOPL (R104, R106, log 19). -/
def State.loadsIf (s : State) : Bool := !(s.mode == .prot && decide (s.iopl < s.cpl))

/-- POPF and IRET load IOPL here: at CPL 0 outside V86 mode only (R22, R104, R106, R111). -/
def State.loadsIopl (s : State) : Bool := !s.vm && s.cpl == 0

/-! Returning from an interrupt (R106, R107, R108). -/

/-- IRET in V86 mode and in real-address mode (R106): IP, CS and FLAGS from the stack, all read before any write; VM and, in
V86 mode, IOPL stay. The 32-bit form also loads RF and AC, and its EIP must not exceed FFFFH. That the 6 or 12 bytes lie
inside the segment is checked before any is translated (R225, D34). -/
def iret8086 (s : State) : M State := do
  let n := s.opBytes
  let sp := s.stackPtr
  checkOff s .ss sp (3 * n)
  let ip ← memRead s .ss sp n
  let cs ← memRead s .ss (sp + BitVec.ofNat 32 n) n
  let fl ← memRead s .ss (sp + BitVec.ofNat 32 (2 * n)) n
  if 0xFFFF < ip.toNat then raising excGP0
  else do
    let s1 := s.setStackPtr (sp + BitVec.ofNat 32 (3 * n))
    let s2 := s1.setSeg .cs (seg8086 (cs.setWidth 16))
    .ok { s2 with
          eip := ip
          eflags := s.eflags.load (Eflags.ofWord fl) s.loadsIf s.loadsIopl s.op32 s.op32
          nmiMasked := false }

/-- A doubleword of the frame that IRET consumes at CPL 0, at the top of the privilege-level-0 stack (R107). -/
def frameSlot (s : State) (k : Nat) : M Dword :=
  linRead s (s.lin .ss (s.reg .esp + BitVec.ofNat 32 k)) 4 .supervisor

/-- IRET executed in protected mode with CPL = 0, NT = 0 and 32-bit operand size, when the EFLAGS image has VM = 1: the entry
into V86 mode (R107, C1, D10). With VM = 0 in the image it is an ordinary protected-mode return, which is not in the spec.
The bytes must be inside the stack segment, else #SS(0): the first 12 before any is read, and when the EFLAGS image shows that
there are 36, all of them before the rest is read (R225, D34). -/
def iretToV86 (s : State) : M State := do
  checkOff s .ss (s.reg .esp) 12
  let eip ← frameSlot s 0
  let cs ← frameSlot s 4
  let fl ← frameSlot s 8
  if (Eflags.ofWord fl).vm then do
    checkOff s .ss (s.reg .esp) 36
    let esp ← frameSlot s 12
    let ss ← frameSlot s 16
    let es ← frameSlot s 20
    let ds ← frameSlot s 24
    let fs ← frameSlot s 28
    let gs ← frameSlot s 32
    if 0xFFFF < eip.toNat then refusing .v86EntryEip
    else
      .ok { s with
            regs := s.regs.set .esp esp
            segs := { cs := seg8086 (cs.setWidth 16), ss := seg8086 (ss.setWidth 16), es := seg8086 (es.setWidth 16),
                      ds := seg8086 (ds.setWidth 16), fs := seg8086 (fs.setWidth 16), gs := seg8086 (gs.setWidth 16) }
            eip := eip
            eflags := Eflags.ofWord fl
            cpl := 3
            nmiMasked := false }
  else refusing .protectedReturn

/-- IRET executed in protected mode with NT = 1: a task switch to the task that the back link of the current TSS names
(R108). What the outgoing TSS gets is the model's choice: the EIP of the instruction after the IRET, and EFLAGS with NT still 1
(DESIGN CHOICE, log 22). That an 80286 TSS has its back link at offset 0 too is the family's (PRESUMED, log 44). -/
def iretTask (s : State) : M State := do
  let link ← insideSwitch (if s.tr.limit.toNat < tssLimit s.tr.is286 then refusing .taskSwitch
    else linRead s s.tr.base 2 .supervisor)
  let t ← taskSwitch s (link.setWidth 16) (s.eip + BitVec.ofNat 32 s.ilen)
  .ok { t with nmiMasked := false }

/-- IRET in protected mode. -/
def iretProtected (s : State) : M State :=
  if s.eflags.nt then iretTask s
  else if s.cpl = 0 ∧ s.op32 then iretToV86 s
  else refusing .protectedReturn

end Sys2Proof.Machine
end

