-- ==== Sys2Proof/Machine/Operands.lean ====
section
/-! DEFINITION. The operand forms: effective addresses (R73, R74, R76, R78), the r/m operand read and written at 8 bits and at
the operand size, the count of a shift, the index registers of string I/O. -/

namespace Sys2Proof.Machine

/-- The register sum of a 16-bit addressing form, modulo 2^16 (R76). -/
def base16Sum (s : State) : Base16 → Word
  | .bxsi => s.reg16 .ebx + s.reg16 .esi
  | .bxdi => s.reg16 .ebx + s.reg16 .edi
  | .bpsi => s.reg16 .ebp + s.reg16 .esi
  | .bpdi => s.reg16 .ebp + s.reg16 .edi
  | .si => s.reg16 .esi
  | .di => s.reg16 .edi
  | .bp => s.reg16 .ebp
  | .bx => s.reg16 .ebx

/-- The value of a 16-bit form's displacement; disp8 is sign-extended (R76, R79). -/
def Disp16.value : Disp16 → Word
  | .none => 0
  | .d8 d => d.signExtend 16
  | .d16 d => d

/-- The value of a 32-bit form's displacement; disp8 is sign-extended (R78, R79). -/
def Disp32.value : Disp32 → Dword
  | .none => 0
  | .d8 d => d.signExtend 32
  | .d32 d => d

/-- The default segment of a register sum: SS for the forms with BP (R74, R76). -/
def base16Seg : Base16 → SReg
  | .bpsi | .bpdi | .bp => .ss
  | _ => .ds

/-- The index of a SIB byte, shifted; index 100 means none (R78). -/
def sibIndex (s : State) (scale : BitVec 2) (index : Reg) : Dword :=
  if index = .esp then 0 else s.reg index <<< scale.toNat

/-- The default segment of a 32-bit base register: SS for ESP and EBP (R78). -/
def base32Seg (b : Reg) : SReg := if b = .esp ∨ b = .ebp then .ss else .ds

/-- The effective address of a memory operand: 16 bits wide and zero-extended, or 32 bits wide (R73, R76, R78). -/
def effAddr (s : State) : MemRef → Dword
  | .a16 (.direct d) => d.setWidth 32
  | .a16 (.based b d) => (base16Sum s b + Disp16.value d).setWidth 32
  | .a32 (.direct d) => d
  | .a32 (.based b d) => s.reg b + Disp32.value d
  | .a32 (.sib sc ix b d) => s.reg b + sibIndex s sc ix + Disp32.value d
  | .a32 (.sibDisp sc ix d) => sibIndex s sc ix + d

/-- The default segment of a memory operand (R74, R76, R78). -/
def defaultSeg : MemRef → SReg
  | .a16 (.direct _) => .ds
  | .a16 (.based b _) => base16Seg b
  | .a32 (.direct _) => .ds
  | .a32 (.based b _) => base32Seg b
  | .a32 (.sib _ _ b _) => base32Seg b
  | .a32 (.sibDisp _ _ _) => .ds

/-- The segment of a memory operand: the segment-override prefix byte, else the default (R74). -/
def operandSeg (s : State) (m : MemRef) : SReg := s.pfx.seg.getD (defaultSeg m)

/-- Reads `n` bytes of a memory operand. -/
def readMem (s : State) (m : MemRef) (n : Nat) : M Dword := memRead s (operandSeg s m) (effAddr s m) n

/-- Writes `n` bytes of a memory operand. -/
def writeMem (s : State) (m : MemRef) (n : Nat) (v : Dword) : M State := memWrite s (operandSeg s m) (effAddr s m) n v

/-- Reads an 8-bit operand. -/
def readRm8 (s : State) : Rm Reg8 → M Byte
  | .reg r => .ok (s.reg8 r)
  | .mem m => do
    let v ← readMem s m 1
    .ok (v.setWidth 8)

/-- Writes an 8-bit operand. -/
def writeRm8 (s : State) (x : Rm Reg8) (v : Byte) : M State :=
  match x with
  | .reg r => .ok (s.setReg8 r v)
  | .mem m => writeMem s m 1 (v.setWidth 32)

/-- Reads a 16-bit operand whatever the operand size is. -/
def readRm16 (s : State) : Rm Reg → M Word
  | .reg r => .ok (s.reg16 r)
  | .mem m => do
    let v ← readMem s m 2
    .ok (v.setWidth 16)

/-- Reads an operand at the operand size, zero-extended when that is 16 (R72). -/
def readRmW (s : State) : Rm Reg → M Dword
  | .reg r => .ok (s.regW s.op32 r)
  | .mem m => readMem s m s.opBytes

/-- Writes an operand at the operand size. -/
def writeRmW (s : State) (x : Rm Reg) (v : Dword) : M State :=
  match x with
  | .reg r => .ok (s.setRegW s.op32 r v)
  | .mem m => writeMem s m s.opBytes v

/-- An index or count register of string I/O at the address size (R73). -/
def State.stringReg (s : State) (r : Reg) : Dword := s.regW s.addr32 r

/-- Writes an index or count register of string I/O at the address size. -/
def State.setStringReg (s : State) (r : Reg) (v : Dword) : State := s.setRegW s.addr32 r v

/-- An index register moved by `n` bytes: up when DF is 0, down when it is 1 (R129). -/
def State.advanceIndex (s : State) (r : Reg) (n : Nat) : State :=
  s.setStringReg r
    (if s.eflags.df then s.stringReg r - BitVec.ofNat 32 n else s.stringReg r + BitVec.ofNat 32 n)

end Sys2Proof.Machine
end

