-- ==== Sys2Proof/Machine/Data.lean ====
section
/-! DEFINITION. The meanings of the stack and data-movement instructions (spec/43_compat_stack_data.md). -/

namespace Sys2Proof.Machine

/-- PUSH r16/r32: the value is read before the stack pointer changes (R160). -/
def execPush (src : Reg) (s : State) : Out := run s false fun s => push s s.opBytes (s.regW s.op32 src)

/-- MOV r16/32, r/m16/32 (R161). -/
def execMovRRm (dst : Reg) (src : Rm Reg) (s : State) : Out :=
  run s false fun s => do
    let v ← readRmW s src
    .ok (s.setRegW s.op32 dst v)

/-- MOV r/m16/32, r16/32 (R162). -/
def execMovRmR (dst : Rm Reg) (src : Reg) (s : State) : Out :=
  run s false fun s => writeRmW s dst (s.regW s.op32 src)

/-- XCHG r/m16/32, r16/32: the address is formed from the old register values (R163). LOCK is legal on the memory form only
(R190). -/
def execXchg (dst : Rm Reg) (src : Reg) (s : State) : Out :=
  run s dst.isMem fun s => do
    let v ← readRmW s dst
    let t ← writeRmW s dst (s.regW s.op32 src)
    .ok (t.setRegW s.op32 src v)

/-- MOV Sreg, r/m16: CS and the numbers 6 and 7 raise #UD; a load of SS sets the shadow (R164, R33, D22). -/
def execMovSregRm (sreg : BitVec 3) (src : Rm Reg) (s : State) : Out :=
  run s false fun s =>
    match SReg.ofNum sreg with
    | none => raising excUD
    | some .cs => raising excUD
    | some r => do
      let v ← readRm16 s src
      let t ← loadSeg s r v
      .ok (if r = .ss then { t with intShadow := true, ssShadow := true } else t)

/-- MOV r/m16, Sreg: the numbers 6 and 7 raise #UD; with 32-bit operand size the upper half of a register destination is a
free value (R165, U6). -/
def execMovRmSreg (dst : Rm Reg) (sreg : BitVec 3) (s : State) : Out :=
  run s false fun s =>
    match SReg.ofNum sreg with
    | none => raising excUD
    | some r =>
      match dst with
      | .mem m => writeMem s m 2 ((s.sel r).setWidth 32)
      | .reg d =>
        if s.op32 then .ok { s.setReg d (Config.drawWord s.draws ++ s.sel r) with draws := s.draws + 1 }
        else .ok (s.setReg16 d (s.sel r))

end Sys2Proof.Machine
end

