-- ==== Sys2Proof/Machine/Divide.lean ====
section
/-! DEFINITION. The meanings of the divide instructions (spec/44_compat_divide_shift.md section 1). -/

namespace Sys2Proof.Machine

/-- Unsigned division on unbounded integers: quotient and remainder, or none for #DE: the divisor is 0 or the quotient does not
fit `n` bits (R171, R172). -/
def divUnsigned (n dividend divisor : Nat) : Option (Nat × Nat) :=
  if divisor = 0 then none
  else if 2 ^ n ≤ dividend / divisor then none
  else some (dividend / divisor, dividend % divisor)

/-- Signed division on unbounded integers, truncating toward zero; the remainder has the dividend's sign. None for #DE: the
divisor is 0 or the quotient is outside -2^(n-1) to 2^(n-1) - 1, the most negative number included (R173, R174). -/
def divSigned (n : Nat) (dividend divisor : Int) : Option (Int × Int) :=
  if divisor = 0 then none
  else
    let q := dividend.tdiv divisor
    if q < -(2 ^ (n - 1) : Int) ∨ (2 ^ (n - 1) : Int) ≤ q then none else some (q, dividend - q * divisor)

/-- The quotient and remainder of a division that succeeds; else #DE (R170). -/
def quotient {α : Type} (x : Option α) : M α :=
  match x with
  | some a => .ok a
  | none => raising excDE

/-- All six arithmetic flags are left undefined (R171, U1). -/
def State.divided (s : State) : State := { s with eflags := divideFlags s.eflags s.draws, draws := s.draws + divideDraws }

/-- DX:AX, 32 bits (R172). -/
def State.dxAx (s : State) : Dword := s.reg16 .edx ++ s.reg16 .eax

/-- EDX:EAX, 64 bits (R172). -/
def State.edxEax (s : State) : BitVec 64 := s.reg .edx ++ s.reg .eax

/-- The unsigned dividend at the operand size. -/
def State.dividend (s : State) : Nat := if s.op32 then s.edxEax.toNat else s.dxAx.toNat

/-- The signed dividend at the operand size. -/
def State.signedDividend (s : State) : Int := if s.op32 then s.edxEax.toInt else s.dxAx.toInt

/-- The signed value of an operand at the operand size. -/
def signedW (w32 : Bool) (v : Dword) : Int := if w32 then v.toInt else (v.setWidth 16).toInt

/-- W, the operand size in bits. -/
def State.opBits (s : State) : Nat := if s.op32 then 32 else 16

/-- DIV r/m8 (R171). -/
def execDiv8 (src : Rm Reg8) (s : State) : Out :=
  run s false fun s => do
    let d ← readRm8 s src
    let (q, r) ← quotient (divUnsigned 8 (s.reg16 .eax).toNat d.toNat)
    .ok ((s.setReg8 .al (BitVec.ofNat 8 q)).setReg8 .ah (BitVec.ofNat 8 r)).divided

/-- DIV r/m16 and DIV r/m32 (R172). -/
def execDivW (src : Rm Reg) (s : State) : Out :=
  run s false fun s => do
    let d ← readRmW s src
    let (q, r) ← quotient (divUnsigned s.opBits s.dividend d.toNat)
    .ok ((s.setRegW s.op32 .eax (BitVec.ofNat 32 q)).setRegW s.op32 .edx (BitVec.ofNat 32 r)).divided

/-- IDIV r/m8 (R173). -/
def execIdiv8 (src : Rm Reg8) (s : State) : Out :=
  run s false fun s => do
    let d ← readRm8 s src
    let (q, r) ← quotient (divSigned 8 (s.reg16 .eax).toInt d.toInt)
    .ok ((s.setReg8 .al (BitVec.ofInt 8 q)).setReg8 .ah (BitVec.ofInt 8 r)).divided

/-- IDIV r/m16 and IDIV r/m32 (R174). -/
def execIdivW (src : Rm Reg) (s : State) : Out :=
  run s false fun s => do
    let d ← readRmW s src
    let (q, r) ← quotient (divSigned s.opBits s.signedDividend (signedW s.op32 d))
    .ok ((s.setRegW s.op32 .eax (BitVec.ofInt 32 q)).setRegW s.op32 .edx (BitVec.ofInt 32 r)).divided

end Sys2Proof.Machine
end

