-- ==== Sys2Proof/Machine/Io.lean ====
section
/-! DEFINITION. The meanings of the I/O instructions (spec/41_io.md). -/

namespace Sys2Proof.Machine

/-- IN of a byte to AL: the check, then the port (R121). -/
def inByte (s : State) (port : Word) : M State := do
  ioCheck s port 1
  .ok ((s.ioReadDone port 1).setReg8 .al ((s.ioValue port 1).setWidth 8))

/-- IN of W / 8 bytes to AX or EAX (R122). -/
def inWide (s : State) (port : Word) : M State := do
  ioCheck s port s.opBytes
  .ok ((s.ioReadDone port s.opBytes).setRegW s.op32 .eax (s.ioValue port s.opBytes))

/-- OUT of AL (R125). -/
def outByte (s : State) (port : Word) : M State := do
  ioCheck s port 1
  .ok (s.ioWrite port 1 ((s.reg8 .al).setWidth 32))

/-- OUT of AX or EAX (R126). -/
def outWide (s : State) (port : Word) : M State := do
  ioCheck s port s.opBytes
  .ok (s.ioWrite port s.opBytes (s.regW s.op32 .eax))

/-- IN AL, imm8 (R121). -/
def execInAlImm (port : Byte) (s : State) : Out := run s false fun s => inByte s (port.setWidth 16)

/-- IN AX/EAX, imm8 (R122). -/
def execInAxImm (port : Byte) (s : State) : Out := run s false fun s => inWide s (port.setWidth 16)

/-- IN AL, DX (R123). -/
def execInAlDx (s : State) : Out := run s false fun s => inByte s (s.reg16 .edx)

/-- IN AX/EAX, DX (R124). -/
def execInAxDx (s : State) : Out := run s false fun s => inWide s (s.reg16 .edx)

/-- OUT imm8, AL (R125). -/
def execOutImmAl (port : Byte) (s : State) : Out := run s false fun s => outByte s (port.setWidth 16)

/-- OUT imm8, AX/EAX (R126). -/
def execOutImmAx (port : Byte) (s : State) : Out := run s false fun s => outWide s (port.setWidth 16)

/-- OUT DX, AL (R127). -/
def execOutDxAl (s : State) : Out := run s false fun s => outByte s (s.reg16 .edx)

/-- OUT DX, AX/EAX (R128). -/
def execOutDxAx (s : State) : Out := run s false fun s => outWide s (s.reg16 .edx)

/-- One INS of `n` bytes: permission, then the destination ES:DI, then the port (R129, R130, D25). -/
def insOnce (s : State) (n : Nat) : M State := do
  ioCheck s (s.reg16 .edx) n
  let t ← memWrite s .es (s.stringReg .edi) n (s.ioValue (s.reg16 .edx) n)
  .ok ((t.ioReadDone (s.reg16 .edx) n).advanceIndex .edi n)

/-- One OUTS of `n` bytes: permission, the source DS:SI or its override, then the port (R131, R132). -/
def outsOnce (s : State) (n : Nat) : M State := do
  ioCheck s (s.reg16 .edx) n
  let v ← memRead s (s.pfx.seg.getD .ds) (s.stringReg .esi) n
  .ok ((s.ioWrite (s.reg16 .edx) n v).advanceIndex .esi n)

/-- Between two iterations of a repeated instruction: EIP still at its first prefix byte, an instruction boundary at which an
interrupt may be taken (R133); the shadow of the instruction before it lasts until it completes (R33, log 28). R133's loop holds
no fetch: the next iteration is that of the instruction that was decoded, whatever its bytes in memory are by then. -/
def betweenIterations (s t : State) (op : StringIo) : State :=
  { t with
    eip := s.eip, ilen := 0, pfx := Pfx.none, intShadow := s.intShadow, ssShadow := s.ssShadow
    iterating := some { op := op, ilen := s.ilen, pfx := s.pfx } }

/-- The permission check of a repeated instruction with a count of 0: made or not made, as a free value says (R133, U23). -/
def zeroCountCheck (s : State) (n : Nat) : M Unit :=
  if Config.zeroCountChecks s.draws then ioCheck s (s.reg16 .edx) n else .ok ()

/-- INS or OUTS of `n` bytes with its repeat prefix byte: one iteration a step (R133, log 28). With a count of 0 nothing is
accessed, and whether the permission is still checked is a free value. -/
def runString (op : StringIo) (s : State) (n : Nat) (once : State → Nat → M State) : Out :=
  finish s do
    lockGuard s false
    if s.pfx.rep.isNone then do
      let t ← once s.begin n
      .ok (retire s t)
    else if s.stringReg .ecx = 0 then do
      zeroCountCheck s n
      .ok (retire s { s.begin with draws := s.draws + 1 })
    else do
      let t ← once s.begin n
      let u := t.setStringReg .ecx (s.stringReg .ecx - 1)
      if s.stringReg .ecx = 1 then .ok (retire s u) else .ok (betweenIterations s u op)

/-- INSB (R129, R133). -/
def execInsb (s : State) : Out := runString .insb s 1 insOnce

/-- INSW and INSD (R130, R133). -/
def execInsw (s : State) : Out := runString .insw s s.opBytes insOnce

/-- OUTSB (R131, R133). -/
def execOutsb (s : State) : Out := runString .outsb s 1 outsOnce

/-- OUTSW and OUTSD (R132, R133). -/
def execOutsw (s : State) : Out := runString .outsw s s.opBytes outsOnce

end Sys2Proof.Machine
end

