-- ==== Sys2Proof/Machine/PfxBytes.lean ====
section
/-! DEFINITION. The meanings of the prefix bytes (R71): each records itself in `pfx`; the instruction is not yet complete, so
EIP stays at its first byte (log 1). Repeated bytes are redundant, and the last segment override takes effect. -/

namespace Sys2Proof.Machine

/-- 66: operand size 32 (R72). -/
def execOpSizePfx (s : State) : Out := .next { s with pfx := { s.pfx with opSize := true } }

/-- 67: address size 32 (R73). -/
def execAddrSizePfx (s : State) : Out := .next { s with pfx := { s.pfx with addrSize := true } }

/-- 26: segment override ES (R74). -/
def execEsPfx (s : State) : Out := .next { s with pfx := { s.pfx with seg := some .es } }

/-- 2E: segment override CS (R74). -/
def execCsPfx (s : State) : Out := .next { s with pfx := { s.pfx with seg := some .cs } }

/-- 36: segment override SS (R74). -/
def execSsPfx (s : State) : Out := .next { s with pfx := { s.pfx with seg := some .ss } }

/-- 3E: segment override DS (R74). -/
def execDsPfx (s : State) : Out := .next { s with pfx := { s.pfx with seg := some .ds } }

/-- 64: segment override FS (R74). -/
def execFsPfx (s : State) : Out := .next { s with pfx := { s.pfx with seg := some .fs } }

/-- 65: segment override GS (R74). -/
def execGsPfx (s : State) : Out := .next { s with pfx := { s.pfx with seg := some .gs } }

/-- F0: LOCK (R75, R190). -/
def execLockPfx (s : State) : Out := .next { s with pfx := { s.pfx with lock := true } }

/-- F2: REPNE (R133). -/
def execRepnePfx (s : State) : Out := .next { s with pfx := { s.pfx with rep := some .repne } }

/-- F3: REP or REPE (R133). -/
def execRepPfx (s : State) : Out := .next { s with pfx := { s.pfx with rep := some .rep } }

end Sys2Proof.Machine
end

