-- ==== Sys2Proof/Machine/Privileged.lean ====
section
/-! DEFINITION. The meanings of the privileged instructions (spec/42_privileged.md): #GP(0) in V86 mode before any operand is
read (R140), their one-clause effect in real-address mode and at CPL 0 (R155). -/

namespace Sys2Proof.Machine

/-- The 6-byte operand of LIDT and LGDT: 16-bit limit, 32-bit base, all of it whatever the operand size is (R141, log 34). That
the limit lies at offset 0 and the base at offset 2, and is read after it, is PRESUMED (unsafe): no rule gives the order
(log 54). That the operand lies inside the segment is checked before any byte is translated (R225, D34). -/
def readTableReg (s : State) (m : MemRef) : M TableReg := do
  checkOff s (operandSeg s m) (effAddr s m) 6
  let limit ← memRead s (operandSeg s m) (effAddr s m) 2
  let base ← memRead s (operandSeg s m) (effAddr s m + 2) 4
  .ok { base := base, limit := limit.setWidth 16 }

/-- LIDT m (R141). -/
def execLidt (src : MemRef) (s : State) : Out :=
  run s false fun s => do
    privileged s
    let t ← readTableReg s src
    .ok { s with idtr := t }

/-- LGDT m (R142). -/
def execLgdt (src : MemRef) (s : State) : Out :=
  run s false fun s => do
    privileged s
    let t ← readTableReg s src
    .ok { s with gdtr := t }

/-- LMSW r/m16: the low four bits of CR0 (R143, log 34). -/
def execLmsw (src : Rm Reg) (s : State) : Out :=
  run s false fun s => do
    privileged s
    let v ← readRm16 s src
    .ok { s with ctrl := { s.ctrl with cr0 := s.ctrl.cr0.extractLsb' 4 28 ++ v.extractLsb' 0 4 } }

/-- Control register n: CR0, CR2, CR3 (R77). -/
def CtrlRegs.get (c : CtrlRegs) (n : BitVec 3) : Option Dword :=
  if n = 0 then some c.cr0 else if n = 2 then some c.cr2 else if n = 3 then some c.cr3 else none

/-- The control registers with register n written. -/
def CtrlRegs.set (c : CtrlRegs) (n : BitVec 3) (v : Dword) : Option CtrlRegs :=
  if n = 0 then some { c with cr0 := v } else if n = 2 then some { c with cr2 := v }
  else if n = 3 then some { c with cr3 := v } else none

/-- Debug register n: DR0 to DR3, DR6, DR7 (R77). -/
def DebugRegs.get (d : DebugRegs) (n : BitVec 3) : Option Dword :=
  if n = 0 then some d.dr0 else if n = 1 then some d.dr1 else if n = 2 then some d.dr2 else if n = 3 then some d.dr3
  else if n = 6 then some d.dr6 else if n = 7 then some d.dr7 else none

/-- The debug registers with register n written. -/
def DebugRegs.set (d : DebugRegs) (n : BitVec 3) (v : Dword) : Option DebugRegs :=
  if n = 0 then some { d with dr0 := v } else if n = 1 then some { d with dr1 := v }
  else if n = 2 then some { d with dr2 := v } else if n = 3 then some { d with dr3 := v }
  else if n = 6 then some { d with dr6 := v } else if n = 7 then some { d with dr7 := v } else none

/-- Test register n: TR3 to TR7 (R77). -/
def TestRegs.get (t : TestRegs) (n : BitVec 3) : Option Dword :=
  if n = 3 then some t.tr3 else if n = 4 then some t.tr4 else if n = 5 then some t.tr5 else if n = 6 then some t.tr6
  else if n = 7 then some t.tr7 else none

/-- The test registers with register n written. -/
def TestRegs.set (t : TestRegs) (n : BitVec 3) (v : Dword) : Option TestRegs :=
  if n = 3 then some { t with tr3 := v } else if n = 4 then some { t with tr4 := v }
  else if n = 5 then some { t with tr5 := v } else if n = 6 then some { t with tr6 := v }
  else if n = 7 then some { t with tr7 := v } else none

/-- A special register that exists, else #UD (R77, log 35). -/
def existing {α : Type} (x : Option α) : M α :=
  match x with
  | some a => .ok a
  | none => raising excUD

/-- Paging cannot be enabled without protection: #GP(0) (log 35). -/
def checkCr0 (n : BitVec 3) (v : Dword) : M Unit :=
  if n = 0 ∧ v.getLsbD 31 ∧ ¬ v.getLsbD 0 then raising excGP0 else .ok ()

/-- MOV r32, CRn (R144). -/
def execMovFromCr (cr : BitVec 3) (dst : Reg) (s : State) : Out :=
  run s false fun s => do
    privileged s
    let v ← existing (s.ctrl.get cr)
    .ok (s.setReg dst v)

/-- MOV CRn, r32 (R145). -/
def execMovToCr (cr : BitVec 3) (src : Reg) (s : State) : Out :=
  run s false fun s => do
    privileged s
    let c ← existing (s.ctrl.set cr (s.reg src))
    checkCr0 cr (s.reg src)
    .ok { s with ctrl := c }

/-- CLTS: clears the task-switched flag of CR0 (R146). That it is bit 3 is the family's (PRESUMED, log 50). -/
def execClts (s : State) : Out :=
  run s false fun s => do
    privileged s
    .ok { s with ctrl := { s.ctrl with cr0 := s.ctrl.cr0 &&& ~~~(8#32) } }

/-- HLT: execution stops until an interrupt or reset (R147, log 36). -/
def execHlt (s : State) : Out :=
  run s false fun s => do
    privileged s
    .ok { s with halted := true }

/-- INVD: no cache is state (R148, D13). -/
def execInvd (s : State) : Out :=
  run s false fun s => do
    privileged s
    .ok s

/-- WBINVD: no cache is state (R149, D13). -/
def execWbinvd (s : State) : Out :=
  run s false fun s => do
    privileged s
    .ok s

/-- INVLPG m: no TLB is state, and the operand is not accessed (R150, D13). -/
def execInvlpg (_src : MemRef) (s : State) : Out :=
  run s false fun s => do
    privileged s
    .ok s

/-- MOV r32, DRn (R151). The debug registers are storage: no breakpoint fires (DESIGN CHOICE, log 51). -/
def execMovFromDr (dr : BitVec 3) (dst : Reg) (s : State) : Out :=
  run s false fun s => do
    privileged s
    let v ← existing (s.dbg.get dr)
    .ok (s.setReg dst v)

/-- MOV DRn, r32 (R152). No breakpoint that is programmed here fires (R261 leaves it open; DESIGN CHOICE, log 51). -/
def execMovToDr (dr : BitVec 3) (src : Reg) (s : State) : Out :=
  run s false fun s => do
    privileged s
    let d ← existing (s.dbg.set dr (s.reg src))
    .ok { s with dbg := d }

/-- MOV r32, TRn (R153). The test registers are storage: no test operation changes one (DESIGN CHOICE, log 51). -/
def execMovFromTr (tr : BitVec 3) (dst : Reg) (s : State) : Out :=
  run s false fun s => do
    privileged s
    let v ← existing (s.tst.get tr)
    .ok (s.setReg dst v)

/-- MOV TRn, r32 (R154). Nothing but the register changes: no test operation of a cache or translation buffer follows (R261 leaves
it open; DESIGN CHOICE, log 51). -/
def execMovToTr (tr : BitVec 3) (src : Reg) (s : State) : Out :=
  run s false fun s => do
    privileged s
    let t ← existing (s.tst.set tr (s.reg src))
    .ok { s with tst := t }

end Sys2Proof.Machine
end

