-- ==== Sys2Proof/Machine/Sensitive.lean ====
section
/-! DEFINITION. The meanings of the IOPL-sensitive instructions (spec/40_sensitive.md). -/

namespace Sys2Proof.Machine

/-- CLI (R101). -/
def execCli (s : State) : Out :=
  run s false fun s => do
    sensitiveIf s
    .ok { s with eflags := { s.eflags with intf := false } }

/-- STI (R102): IntShadow is set when IF was 0. -/
def execSti (s : State) : Out :=
  run s false fun s => do
    sensitiveIf s
    .ok { s with eflags := { s.eflags with intf := true }, intShadow := !s.eflags.intf }

/-- The image that PUSHF or PUSHFD stores (R24, R103). -/
def pushfImage (s : State) : Dword := if s.op32 then pushfdImage s.eflags else pushf16Image s.eflags

/-- PUSHF and PUSHFD (R103). -/
def execPushf (s : State) : Out :=
  run s false fun s => do
    sensitive s
    push s s.opBytes (pushfImage s)

/-- EFLAGS after POPF or POPFD of an image; POPFD loads AC and clears RF (R104). -/
def popfFlags (s : State) (image : Dword) : Eflags :=
  let f := s.eflags.load (Eflags.ofWord image) s.loadsIf s.loadsIopl false s.op32
  if s.op32 then { f with rf := false } else f

/-- POPF and POPFD (R104). -/
def execPopf (s : State) : Out :=
  run s false fun s => do
    sensitive s
    let (v, t) ← pop s s.opBytes
    .ok { t with eflags := popfFlags s v }

/-- INT n (R105). -/
def execIntN (vector : Byte) (s : State) : Out :=
  match (do lockGuard s false; sensitive s : M Unit) with
  | .ok _ => softInterrupt s vector
  | .error e => stopped s e

/-- IRET and IRETD: R106 in V86 mode and in real-address mode, R107, R108 and R111 in protected mode. -/
def execIret (s : State) : Out :=
  runJump s fun s => do
    sensitive s
    match s.mode with
    | .prot => iretProtected s
    | _ => iret8086 s

end Sys2Proof.Machine
end

