-- ==== Sys2Proof/Machine/Shift.lean ====
section
/-! DEFINITION. The meanings of the shift and rotate instructions (spec/44_compat_divide_shift.md section 2): one shared
operation for each operand width, and one definition for each row of the opcode table. -/

namespace Sys2Proof.Machine

/-- EFLAGS and the draw count after a shift or rotate of `d` by a masked count `c` that is not 0, from the state `s` before it. -/
def State.shifted {n : Nat} (s t : State) (op : ShiftOp) (d : BitVec n) (c : Nat) : State :=
  { t with eflags := shiftFlags op s.eflags d c s.draws, draws := s.draws + shiftDraws }

/-- A shift or rotate of an 8-bit operand (R183): a masked count of 0 changes nothing, though a memory operand is read. -/
def shift8 (op : ShiftOp) (dst : Rm Reg8) (count : Byte) (s : State) : M State := do
  let d ← readRm8 s dst
  if maskCount count = 0 then .ok s
  else do
    let t ← writeRm8 s dst (shiftResult op (s.eflags.cf) d (maskCount count))
    .ok (s.shifted t op d (maskCount count))

/-- A shift or rotate of an operand of the operand size (R183). -/
def shiftW (op : ShiftOp) (dst : Rm Reg) (count : Byte) (s : State) : M State := do
  let d ← readRmW s dst
  if maskCount count = 0 then .ok s
  else if s.op32 then do
    let t ← writeRmW s dst (shiftResult op (s.eflags.cf) d (maskCount count))
    .ok (s.shifted t op d (maskCount count))
  else do
    let t ← writeRmW s dst ((shiftResult op (s.eflags.cf) (d.setWidth 16) (maskCount count)).setWidth 32)
    .ok (s.shifted t op (d.setWidth 16) (maskCount count))

/-- ROL r/m8, 1 (R176). -/
def execRol8One (dst : Rm Reg8) (s : State) : Out := run s false fun s => shift8 .rol dst 1 s

/-- ROL r/m16/32, 1 (R176). -/
def execRolWOne (dst : Rm Reg) (s : State) : Out := run s false fun s => shiftW .rol dst 1 s

/-- ROL r/m8, CL (R176). -/
def execRol8Cl (dst : Rm Reg8) (s : State) : Out := run s false fun s => shift8 .rol dst (s.reg8 .cl) s

/-- ROL r/m16/32, CL (R176). -/
def execRolWCl (dst : Rm Reg) (s : State) : Out := run s false fun s => shiftW .rol dst (s.reg8 .cl) s

/-- ROL r/m8, imm8 (R176). -/
def execRol8Imm (dst : Rm Reg8) (count : Byte) (s : State) : Out := run s false fun s => shift8 .rol dst count s

/-- ROL r/m16/32, imm8 (R176). -/
def execRolWImm (dst : Rm Reg) (count : Byte) (s : State) : Out := run s false fun s => shiftW .rol dst count s

/-- ROR r/m8, 1 (R177). -/
def execRor8One (dst : Rm Reg8) (s : State) : Out := run s false fun s => shift8 .ror dst 1 s

/-- ROR r/m16/32, 1 (R177). -/
def execRorWOne (dst : Rm Reg) (s : State) : Out := run s false fun s => shiftW .ror dst 1 s

/-- ROR r/m8, CL (R177). -/
def execRor8Cl (dst : Rm Reg8) (s : State) : Out := run s false fun s => shift8 .ror dst (s.reg8 .cl) s

/-- ROR r/m16/32, CL (R177). -/
def execRorWCl (dst : Rm Reg) (s : State) : Out := run s false fun s => shiftW .ror dst (s.reg8 .cl) s

/-- ROR r/m8, imm8 (R177). -/
def execRor8Imm (dst : Rm Reg8) (count : Byte) (s : State) : Out := run s false fun s => shift8 .ror dst count s

/-- ROR r/m16/32, imm8 (R177). -/
def execRorWImm (dst : Rm Reg) (count : Byte) (s : State) : Out := run s false fun s => shiftW .ror dst count s

/-- RCL r/m8, 1 (R178). -/
def execRcl8One (dst : Rm Reg8) (s : State) : Out := run s false fun s => shift8 .rcl dst 1 s

/-- RCL r/m16/32, 1 (R178). -/
def execRclWOne (dst : Rm Reg) (s : State) : Out := run s false fun s => shiftW .rcl dst 1 s

/-- RCL r/m8, CL (R178). -/
def execRcl8Cl (dst : Rm Reg8) (s : State) : Out := run s false fun s => shift8 .rcl dst (s.reg8 .cl) s

/-- RCL r/m16/32, CL (R178). -/
def execRclWCl (dst : Rm Reg) (s : State) : Out := run s false fun s => shiftW .rcl dst (s.reg8 .cl) s

/-- RCL r/m8, imm8 (R178). -/
def execRcl8Imm (dst : Rm Reg8) (count : Byte) (s : State) : Out := run s false fun s => shift8 .rcl dst count s

/-- RCL r/m16/32, imm8 (R178). -/
def execRclWImm (dst : Rm Reg) (count : Byte) (s : State) : Out := run s false fun s => shiftW .rcl dst count s

/-- RCR r/m8, 1 (R179). -/
def execRcr8One (dst : Rm Reg8) (s : State) : Out := run s false fun s => shift8 .rcr dst 1 s

/-- RCR r/m16/32, 1 (R179). -/
def execRcrWOne (dst : Rm Reg) (s : State) : Out := run s false fun s => shiftW .rcr dst 1 s

/-- RCR r/m8, CL (R179). -/
def execRcr8Cl (dst : Rm Reg8) (s : State) : Out := run s false fun s => shift8 .rcr dst (s.reg8 .cl) s

/-- RCR r/m16/32, CL (R179). -/
def execRcrWCl (dst : Rm Reg) (s : State) : Out := run s false fun s => shiftW .rcr dst (s.reg8 .cl) s

/-- RCR r/m8, imm8 (R179). -/
def execRcr8Imm (dst : Rm Reg8) (count : Byte) (s : State) : Out := run s false fun s => shift8 .rcr dst count s

/-- RCR r/m16/32, imm8 (R179). -/
def execRcrWImm (dst : Rm Reg) (count : Byte) (s : State) : Out := run s false fun s => shiftW .rcr dst count s

/-- SHL r/m8, 1 (R180). -/
def execShl8One (dst : Rm Reg8) (s : State) : Out := run s false fun s => shift8 .shl dst 1 s

/-- SHL r/m16/32, 1 (R180). -/
def execShlWOne (dst : Rm Reg) (s : State) : Out := run s false fun s => shiftW .shl dst 1 s

/-- SHL r/m8, CL (R180). -/
def execShl8Cl (dst : Rm Reg8) (s : State) : Out := run s false fun s => shift8 .shl dst (s.reg8 .cl) s

/-- SHL r/m16/32, CL (R180). -/
def execShlWCl (dst : Rm Reg) (s : State) : Out := run s false fun s => shiftW .shl dst (s.reg8 .cl) s

/-- SHL r/m8, imm8 (R180). -/
def execShl8Imm (dst : Rm Reg8) (count : Byte) (s : State) : Out := run s false fun s => shift8 .shl dst count s

/-- SHL r/m16/32, imm8 (R180). -/
def execShlWImm (dst : Rm Reg) (count : Byte) (s : State) : Out := run s false fun s => shiftW .shl dst count s

/-- SHR r/m8, 1 (R181). -/
def execShr8One (dst : Rm Reg8) (s : State) : Out := run s false fun s => shift8 .shr dst 1 s

/-- SHR r/m16/32, 1 (R181). -/
def execShrWOne (dst : Rm Reg) (s : State) : Out := run s false fun s => shiftW .shr dst 1 s

/-- SHR r/m8, CL (R181). -/
def execShr8Cl (dst : Rm Reg8) (s : State) : Out := run s false fun s => shift8 .shr dst (s.reg8 .cl) s

/-- SHR r/m16/32, CL (R181). -/
def execShrWCl (dst : Rm Reg) (s : State) : Out := run s false fun s => shiftW .shr dst (s.reg8 .cl) s

/-- SHR r/m8, imm8 (R181). -/
def execShr8Imm (dst : Rm Reg8) (count : Byte) (s : State) : Out := run s false fun s => shift8 .shr dst count s

/-- SHR r/m16/32, imm8 (R181). -/
def execShrWImm (dst : Rm Reg) (count : Byte) (s : State) : Out := run s false fun s => shiftW .shr dst count s

/-- SAR r/m8, 1 (R182). -/
def execSar8One (dst : Rm Reg8) (s : State) : Out := run s false fun s => shift8 .sar dst 1 s

/-- SAR r/m16/32, 1 (R182). -/
def execSarWOne (dst : Rm Reg) (s : State) : Out := run s false fun s => shiftW .sar dst 1 s

/-- SAR r/m8, CL (R182). -/
def execSar8Cl (dst : Rm Reg8) (s : State) : Out := run s false fun s => shift8 .sar dst (s.reg8 .cl) s

/-- SAR r/m16/32, CL (R182). -/
def execSarWCl (dst : Rm Reg) (s : State) : Out := run s false fun s => shiftW .sar dst (s.reg8 .cl) s

/-- SAR r/m8, imm8 (R182). -/
def execSar8Imm (dst : Rm Reg8) (count : Byte) (s : State) : Out := run s false fun s => shift8 .sar dst count s

/-- SAR r/m16/32, imm8 (R182). -/
def execSarWImm (dst : Rm Reg) (count : Byte) (s : State) : Out := run s false fun s => shiftW .sar dst count s

end Sys2Proof.Machine
end

