-- ==== Sys2Proof/Machine/Dispatch.lean ====
section
/-! DEFINITION. The meaning of each instruction, one arm per constructor of Instr, in the order of the opcode table. -/

namespace Sys2Proof.Machine

def exec (i : Instr) (s : State) : Host.Outcome State Fault Refusal :=
  match i with
  | .cli => Sys2Proof.Machine.execCli s
  | .sti => Sys2Proof.Machine.execSti s
  | .pushf => Sys2Proof.Machine.execPushf s
  | .popf => Sys2Proof.Machine.execPopf s
  | .intN vector => Sys2Proof.Machine.execIntN vector s
  | .iret => Sys2Proof.Machine.execIret s
  | .inAlImm port => Sys2Proof.Machine.execInAlImm port s
  | .inAxImm port => Sys2Proof.Machine.execInAxImm port s
  | .inAlDx => Sys2Proof.Machine.execInAlDx s
  | .inAxDx => Sys2Proof.Machine.execInAxDx s
  | .outImmAl port => Sys2Proof.Machine.execOutImmAl port s
  | .outImmAx port => Sys2Proof.Machine.execOutImmAx port s
  | .outDxAl => Sys2Proof.Machine.execOutDxAl s
  | .outDxAx => Sys2Proof.Machine.execOutDxAx s
  | .insb => Sys2Proof.Machine.execInsb s
  | .insw => Sys2Proof.Machine.execInsw s
  | .outsb => Sys2Proof.Machine.execOutsb s
  | .outsw => Sys2Proof.Machine.execOutsw s
  | .lidt src => Sys2Proof.Machine.execLidt src s
  | .lgdt src => Sys2Proof.Machine.execLgdt src s
  | .lmsw src => Sys2Proof.Machine.execLmsw src s
  | .movFromCr cr dst => Sys2Proof.Machine.execMovFromCr cr dst s
  | .movToCr cr src => Sys2Proof.Machine.execMovToCr cr src s
  | .clts => Sys2Proof.Machine.execClts s
  | .hlt => Sys2Proof.Machine.execHlt s
  | .invd => Sys2Proof.Machine.execInvd s
  | .wbinvd => Sys2Proof.Machine.execWbinvd s
  | .invlpg src => Sys2Proof.Machine.execInvlpg src s
  | .movFromDr dr dst => Sys2Proof.Machine.execMovFromDr dr dst s
  | .movToDr dr src => Sys2Proof.Machine.execMovToDr dr src s
  | .movFromTr tr dst => Sys2Proof.Machine.execMovFromTr tr dst s
  | .movToTr tr src => Sys2Proof.Machine.execMovToTr tr src s
  | .push src => Sys2Proof.Machine.execPush src s
  | .movRRm dst src => Sys2Proof.Machine.execMovRRm dst src s
  | .movRmR dst src => Sys2Proof.Machine.execMovRmR dst src s
  | .xchg dst src => Sys2Proof.Machine.execXchg dst src s
  | .movSregRm sreg src => Sys2Proof.Machine.execMovSregRm sreg src s
  | .movRmSreg dst sreg => Sys2Proof.Machine.execMovRmSreg dst sreg s
  | .div8 src => Sys2Proof.Machine.execDiv8 src s
  | .divW src => Sys2Proof.Machine.execDivW src s
  | .idiv8 src => Sys2Proof.Machine.execIdiv8 src s
  | .idivW src => Sys2Proof.Machine.execIdivW src s
  | .rol8One dst => Sys2Proof.Machine.execRol8One dst s
  | .rolWOne dst => Sys2Proof.Machine.execRolWOne dst s
  | .rol8Cl dst => Sys2Proof.Machine.execRol8Cl dst s
  | .rolWCl dst => Sys2Proof.Machine.execRolWCl dst s
  | .rol8Imm dst count => Sys2Proof.Machine.execRol8Imm dst count s
  | .rolWImm dst count => Sys2Proof.Machine.execRolWImm dst count s
  | .ror8One dst => Sys2Proof.Machine.execRor8One dst s
  | .rorWOne dst => Sys2Proof.Machine.execRorWOne dst s
  | .ror8Cl dst => Sys2Proof.Machine.execRor8Cl dst s
  | .rorWCl dst => Sys2Proof.Machine.execRorWCl dst s
  | .ror8Imm dst count => Sys2Proof.Machine.execRor8Imm dst count s
  | .rorWImm dst count => Sys2Proof.Machine.execRorWImm dst count s
  | .rcl8One dst => Sys2Proof.Machine.execRcl8One dst s
  | .rclWOne dst => Sys2Proof.Machine.execRclWOne dst s
  | .rcl8Cl dst => Sys2Proof.Machine.execRcl8Cl dst s
  | .rclWCl dst => Sys2Proof.Machine.execRclWCl dst s
  | .rcl8Imm dst count => Sys2Proof.Machine.execRcl8Imm dst count s
  | .rclWImm dst count => Sys2Proof.Machine.execRclWImm dst count s
  | .rcr8One dst => Sys2Proof.Machine.execRcr8One dst s
  | .rcrWOne dst => Sys2Proof.Machine.execRcrWOne dst s
  | .rcr8Cl dst => Sys2Proof.Machine.execRcr8Cl dst s
  | .rcrWCl dst => Sys2Proof.Machine.execRcrWCl dst s
  | .rcr8Imm dst count => Sys2Proof.Machine.execRcr8Imm dst count s
  | .rcrWImm dst count => Sys2Proof.Machine.execRcrWImm dst count s
  | .shl8One dst => Sys2Proof.Machine.execShl8One dst s
  | .shlWOne dst => Sys2Proof.Machine.execShlWOne dst s
  | .shl8Cl dst => Sys2Proof.Machine.execShl8Cl dst s
  | .shlWCl dst => Sys2Proof.Machine.execShlWCl dst s
  | .shl8Imm dst count => Sys2Proof.Machine.execShl8Imm dst count s
  | .shlWImm dst count => Sys2Proof.Machine.execShlWImm dst count s
  | .shr8One dst => Sys2Proof.Machine.execShr8One dst s
  | .shrWOne dst => Sys2Proof.Machine.execShrWOne dst s
  | .shr8Cl dst => Sys2Proof.Machine.execShr8Cl dst s
  | .shrWCl dst => Sys2Proof.Machine.execShrWCl dst s
  | .shr8Imm dst count => Sys2Proof.Machine.execShr8Imm dst count s
  | .shrWImm dst count => Sys2Proof.Machine.execShrWImm dst count s
  | .sar8One dst => Sys2Proof.Machine.execSar8One dst s
  | .sarWOne dst => Sys2Proof.Machine.execSarWOne dst s
  | .sar8Cl dst => Sys2Proof.Machine.execSar8Cl dst s
  | .sarWCl dst => Sys2Proof.Machine.execSarWCl dst s
  | .sar8Imm dst count => Sys2Proof.Machine.execSar8Imm dst count s
  | .sarWImm dst count => Sys2Proof.Machine.execSarWImm dst count s
  | .opSizePfx => Sys2Proof.Machine.execOpSizePfx s
  | .addrSizePfx => Sys2Proof.Machine.execAddrSizePfx s
  | .esPfx => Sys2Proof.Machine.execEsPfx s
  | .csPfx => Sys2Proof.Machine.execCsPfx s
  | .ssPfx => Sys2Proof.Machine.execSsPfx s
  | .dsPfx => Sys2Proof.Machine.execDsPfx s
  | .fsPfx => Sys2Proof.Machine.execFsPfx s
  | .gsPfx => Sys2Proof.Machine.execGsPfx s
  | .lockPfx => Sys2Proof.Machine.execLockPfx s
  | .repnePfx => Sys2Proof.Machine.execRepnePfx s
  | .repPfx => Sys2Proof.Machine.execRepPfx s

end Sys2Proof.Machine
end

