-- ==== Sys2Proof/Machine/Events.lean ====
section
/-! DEFINITION. Instruction boundaries: what the environment offers (D23, D15), and which pending event is taken, in the order
of R225. -/

namespace Sys2Proof.Machine

/-- Memory with other bus masters' bytes written. -/
def busWrite (m : Memory) : List Host.Cell → Memory
  | [] => m
  | (a, v) :: ws => busWrite (m.write a v) ws

/-- The first address of a bus master's writes that is outside the 32-bit physical address space. -/
def badBusAddress (ws : List Host.Cell) : Option Nat := (ws.map (·.1)).find? fun a => decide (2 ^ 32 ≤ a)

/-- Whether an offered NMI request becomes pending: always when NMI is not masked; a masked one is remembered or lost, as a
free value says (D32, U20). -/
def State.nmiKept (s : State) : Bool := !s.nmiMasked || Config.maskedNmiKept s.draws

/-- The state with one offer of the environment taken in: requests become pending, other bus masters' writes are in memory. An
NMI, or a floating-point error, that is offered while one is pending merges with it (DESIGN CHOICE, log 55). -/
def State.withOffer (s : State) (o : Offer) : State :=
  { s with
    mem := busWrite s.mem o.busWrites
    irqs := s.irqs ++ o.irq.toList
    nmiPending := s.nmiPending || (o.nmi && s.nmiKept)
    fpPending := s.fpPending || o.fpError
    draws := if o.nmi && s.nmiMasked then s.draws + 1 else s.draws }

/-- Takes in what the schedule offers at this boundary (D23). Other bus masters write at boundaries only: what they write
between two transfers of one instruction (R59, D15) is left out (DESIGN CHOICE, log 39). -/
def absorb (s : State) : Except Fault State :=
  match s.extEvents with
  | [] => .ok s
  | o :: rest =>
    match badBusAddress o.busWrites with
    | some a => .error (.busAddress a)
    | none => .ok ({ s with extEvents := rest }.withOffer o)

/-- The single-step trap: vector 1, no error code, the next instruction's address saved (R215), 10000H too (log 57). -/
def trapEvent (s : State) : Event := { vector := 1, err := none, ext := false, ret := s.eip, trap := false }

/-- NMI: vector 2, no error code (R214, R216). The saved EIP may be 10000H (log 57). -/
def nmiEvent (s : State) : Event := { vector := 2, err := none, ext := true, ret := s.eip, trap := false }

/-- An external maskable interrupt (R214). The saved EIP may be 10000H (log 57). -/
def irqEvent (s : State) (v : Byte) : Event := { vector := v, err := none, ext := true, ret := s.eip, trap := false }

/-- Whether the pending single-step trap is taken now: a load of SS holds it back by one instruction (D22). -/
def State.takesTrap (s : State) : Bool := s.trapPending && !s.ssShadow

/-- Whether the pending NMI is taken now: not while masked (R216), nor in the shadow of a load of SS (D22). -/
def State.takesNmi (s : State) : Bool := s.nmiPending && !s.nmiMasked && !s.ssShadow

/-- Whether external interrupts are accepted now: IF = 1 and no shadow, of STI or of a load of SS (R23, R33, R214, D22). -/
def State.acceptsIrq (s : State) : Bool := s.eflags.intf && !s.intShadow && !s.ssShadow

/-- The event taken at a boundary, if any: the single-step trap, then NMI, then an external interrupt (R215, R225). It is no longer
pending, though its gate fail the check of R206 and the #GP be delivered instead (DESIGN CHOICE, log 53). -/
def takeEvent (s : State) : Option Out :=
  if s.takesTrap then some (deliver { s with trapPending := false } (trapEvent s))
  else if s.takesNmi then some (deliver { s with nmiMasked := true, nmiPending := false } (nmiEvent s))
  else if s.acceptsIrq then
    match s.irqs with
    | [] => none
    | v :: vs => some (deliver { s with irqs := vs } (irqEvent s v))
  else none

/-- What an instruction boundary makes of a state: an outcome (an event taken, a halted processor that stays halted, a fault
of a bus master), or the state in which the next instruction begins. -/
inductive Boundary where
  | outcome (o : Out)
  | go (s : State)

/-- An instruction boundary. Between a prefix byte and its instruction there is none (log 1). -/
def boundary (s : State) : Boundary :=
  if s.ilen = 0 then
    match absorb s with
    | .error f => .outcome (.fault f)
    | .ok t =>
      match takeEvent t with
      | some o => .outcome o
      | none => if t.halted then .outcome (.next t) else .go t
  else .go s

end Sys2Proof.Machine
end

