-- ==== Sys2Proof/Machine/Fetch.lean ====
section
/-! DEFINITION. Fetching and decoding at CS:EIP (R17, R47, R60, R63, R70, R84). -/

namespace Sys2Proof.Machine

/-- The most bytes an instruction may have (R70). -/
def maxLength : Nat := 15

/-- `Fetch` of byte `k` of the current instruction (R63): #GP(0) when a 16th byte is needed (R70, D33) and past the end of the
code segment (R47); #PF by translation; refused when the address was written since the last control transfer (R60). -/
def fetchByte (s : State) (k : Nat) : M Byte :=
  if maxLength ≤ k then raising excGP0
  else do
    checkOff s .cs (s.eip + BitVec.ofNat 32 k) 1
    let pa ← linToPhys s (s.lin .cs (s.eip + BitVec.ofNat 32 k)) .fetch s.priv
    if s.written.contains pa.toNat then refusing .staleFetch else .ok (s.mem.read pa.toNat)

/-- The bytes of the current instruction from byte `k` up that can be fetched, at most `n`, and what stops the fetch of the
next one. A byte that the decoder does not ask for has no effect. -/
def fetchWindow (s : State) : Nat → Nat → List Byte × Stop
  | 0, _ => ([], .exc excGP0)
  | n + 1, k =>
    match fetchByte s k with
    | .error e => ([], e)
    | .ok b => (b :: (fetchWindow s n (k + 1)).1, (fetchWindow s n (k + 1)).2)

/-- The bytes not yet decoded of the current instruction, up to its 15th. -/
def State.window (s : State) : List Byte × Stop := fetchWindow s (maxLength - s.ilen) s.ilen

/-- What decoding answers: an instruction to execute, with the state that counts its bytes, or an outcome. -/
inductive Fetched where
  | execute (i : Instr) (s : State)
  | outcome (o : Out)

/-- The outcome of an opcode that V86 mode and real-address mode do not support: #UD (R81), once its ModRM byte and what that calls
for have been fetched (PRESUMED, log 52); in protected mode it has no rule (D19). -/
def unsupportedOutcome (s : State) : Out :=
  match s.mode with
  | .prot => .refused .noRule
  | _ =>
    match lockGuard s false with
    | .error e => stopped s e
    | .ok _ => raise s excUD

/-- The outcome of an opcode without a rule: the LOCK check (R190), then refused, and no #UD, since R82 raises it "only where a
rule says so" (R82, D19). Its bytes past those that tell it are
not fetched: no fault of their fetch comes before the refusal, nor before the #UD or #GP(0) of its LOCK prefix byte (DESIGN
CHOICE, log 49). -/
def noRuleOutcome (s : State) (lockable : Bool) : Out :=
  match lockGuard s lockable with
  | .error e => stopped s e
  | .ok _ => .refused .noRule

/-- The outcome of ESC and WAIT: a pending floating-point error is reported, #MF, vector 16, with the saved CS:EIP at the first
prefix byte (R192, R193); else the LOCK check (R190), then refused (U14). The error is reported once the ESC, its ModRM byte
and displacement with it, has been fetched (R84, R86), and before the check of its LOCK prefix byte, since R225 reports it at
the boundary before that instruction (DEDUCED, log 30). It is reported once: it is not pending afterwards, though its gate fail the
check of R206 (log 53). -/
def escOutcome (s : State) : Out :=
  if s.fpPending then
    deliver { s with fpPending := false } { vector := 16, err := none, ext := false, ret := s.eip, trap := false }
  else
    match lockGuard s false with
    | .error e => stopped s e
    | .ok _ => .refused .floatingPoint

/-- Fetches and decodes one prefix byte or one instruction at CS:EIP + `ilen` (R84). -/
def fetchDecode (s : State) : Fetched :=
  match decode s.addr32 s.window.1 with
  | .ok i n => .execute i { s with ilen := s.ilen + n }
  | .more => .outcome (stopped s s.window.2)
  | .unsupported => .outcome (unsupportedOutcome s)
  | .noRule l => .outcome (noRuleOutcome s l)
  | .escOrWait => .outcome (escOutcome s)

/-- The instruction of the opcode table that a string I/O instruction is. -/
def StringIo.instr : StringIo → Instr
  | .insb => .insb
  | .insw => .insw
  | .outsb => .outsb
  | .outsw => .outsw

/-- What follows an instruction boundary at which no event is taken: the next iteration of a repeated instruction, which is not
fetched again (R133), else one prefix byte or one instruction, fetched and decoded. -/
def nextInstruction (s : State) : Fetched :=
  match s.iterating with
  | some r => .execute r.op.instr { s with ilen := r.ilen, pfx := r.pfx, iterating := none }
  | none => fetchDecode s

/-- Physical memory with bytes stored where the next bytes of the instruction at CS:EIP are fetched; a byte whose address does
not translate is not stored. -/
def storeCode (s : State) (m : Memory) : Nat → List Byte → Memory
  | _, [] => m
  | k, b :: bs =>
    match linToPhys s (s.lin .cs (s.eip + BitVec.ofNat 32 k)) .fetch s.priv with
    | .ok pa => storeCode s (m.write pa.toNat b) (k + 1) bs
    | .error _ => storeCode s m (k + 1) bs

end Sys2Proof.Machine
end

