-- ==== Sys2Proof/Machine/Step.lean ====
section
/-! DEFINITION. One step: at an instruction boundary an event if one is taken (R225), else the next iteration of a repeated
instruction, or one prefix byte or one instruction, fetched, decoded and executed. -/

namespace Sys2Proof.Machine

/-- One step of the machine. -/
def step (s : State) : Host.Outcome State Fault Refusal :=
  match boundary s with
  | .outcome o => o
  | .go t =>
    match nextInstruction t with
    | .outcome o => o
    | .execute i u => exec i u

/-- The state with the instruction of a table word stored where the next step fetches: at CS:EIP, up to 15 bytes, and no
longer counted among the addresses written (R60), with no repeated instruction to go on with. Nothing else changes (log 38). -/
def State.withFetchWord (s : State) (nbits w : Nat) : State :=
  { s with mem := storeCode s s.mem s.ilen (tableBytes nbits w), written := [], iterating := none }

end Sys2Proof.Machine
end

