-- ==== Sys2Proof/Laws/PerInstr.lean ====
section
/-! SUPPORT. Statements made per instruction: without its prefix bytes, an instruction is encoded in 1 to 8 bytes (R70). -/

namespace Sys2Proof.Laws

/-- The ModRM byte and what follows it are 1 to 6 bytes. -/
theorem encodeMem_length (reg : BitVec 3) (m : MemRef) : 1 ≤ (encodeMem reg m).length ∧ (encodeMem reg m).length ≤ 6 := by
  rcases m with m | m
  · rcases m with d | ⟨b, d⟩
    · simp [encodeMem, encodeMem16, bytes16]
    · cases d <;> simp [encodeMem, encodeMem16, bytes16]
  · rcases m with d | ⟨b, d⟩ | ⟨sc, ix, b, d⟩ | ⟨sc, ix, d⟩
    · simp [encodeMem, encodeMem32, bytes32]
    · cases d <;> simp [encodeMem, encodeMem32, Disp32.bytes, bytes32]
    · cases d <;> simp [encodeMem, encodeMem32, Disp32.bytes, bytes32]
    · simp [encodeMem, encodeMem32, bytes32]

theorem encodeRm8_length (reg : BitVec 3) (x : Rm Reg8) : 1 ≤ (encodeRm8 reg x).length ∧ (encodeRm8 reg x).length ≤ 6 := by
  cases x with
  | reg r => simp [encodeRm8]
  | mem m => exact encodeMem_length reg m

theorem encodeRmW_length (reg : BitVec 3) (x : Rm Reg) : 1 ≤ (encodeRmW reg x).length ∧ (encodeRmW reg x).length ≤ 6 := by
  cases x with
  | reg r => simp [encodeRmW]
  | mem m => exact encodeMem_length reg m

/-- One opcode byte and a ModRM operand. -/
theorem tail_one {l : List Byte} (b : Byte) (h : 1 ≤ l.length ∧ l.length ≤ 6) :
    1 ≤ (b :: l).length ∧ (b :: l).length ≤ 8 := by
  simp only [List.length_cons]
  omega

/-- Two opcode bytes and a ModRM operand. -/
theorem tail_two {l : List Byte} (b c : Byte) (h : 1 ≤ l.length ∧ l.length ≤ 6) :
    1 ≤ (b :: c :: l).length ∧ (b :: c :: l).length ≤ 8 := by
  simp only [List.length_cons]
  omega

/-- One opcode byte, a ModRM operand and an immediate byte. -/
theorem tail_imm {l : List Byte} (b c : Byte) (h : 1 ≤ l.length ∧ l.length ≤ 6) :
    1 ≤ (b :: l ++ [c]).length ∧ (b :: l ++ [c]).length ≤ 8 := by
  simp only [List.cons_append, List.length_cons, List.length_append, List.length_nil]
  omega

/-- The bytes of an instruction are 1 to 8 (R70). -/
def EncodeLength.Statement (i : Instr) : Prop := 1 ≤ (encode i).length ∧ (encode i).length ≤ 8

theorem EncodeLength.cli : EncodeLength.Statement (.cli) :=
  ⟨Nat.le_of_ble_eq_true rfl, Nat.le_of_ble_eq_true rfl⟩

theorem EncodeLength.sti : EncodeLength.Statement (.sti) :=
  ⟨Nat.le_of_ble_eq_true rfl, Nat.le_of_ble_eq_true rfl⟩

theorem EncodeLength.pushf : EncodeLength.Statement (.pushf) :=
  ⟨Nat.le_of_ble_eq_true rfl, Nat.le_of_ble_eq_true rfl⟩

theorem EncodeLength.popf : EncodeLength.Statement (.popf) :=
  ⟨Nat.le_of_ble_eq_true rfl, Nat.le_of_ble_eq_true rfl⟩

theorem EncodeLength.intN (vector : Byte) : EncodeLength.Statement (.intN vector) :=
  ⟨Nat.le_of_ble_eq_true rfl, Nat.le_of_ble_eq_true rfl⟩

theorem EncodeLength.iret : EncodeLength.Statement (.iret) :=
  ⟨Nat.le_of_ble_eq_true rfl, Nat.le_of_ble_eq_true rfl⟩

theorem EncodeLength.inAlImm (port : Byte) : EncodeLength.Statement (.inAlImm port) :=
  ⟨Nat.le_of_ble_eq_true rfl, Nat.le_of_ble_eq_true rfl⟩

theorem EncodeLength.inAxImm (port : Byte) : EncodeLength.Statement (.inAxImm port) :=
  ⟨Nat.le_of_ble_eq_true rfl, Nat.le_of_ble_eq_true rfl⟩

theorem EncodeLength.inAlDx : EncodeLength.Statement (.inAlDx) :=
  ⟨Nat.le_of_ble_eq_true rfl, Nat.le_of_ble_eq_true rfl⟩

theorem EncodeLength.inAxDx : EncodeLength.Statement (.inAxDx) :=
  ⟨Nat.le_of_ble_eq_true rfl, Nat.le_of_ble_eq_true rfl⟩

theorem EncodeLength.outImmAl (port : Byte) : EncodeLength.Statement (.outImmAl port) :=
  ⟨Nat.le_of_ble_eq_true rfl, Nat.le_of_ble_eq_true rfl⟩

theorem EncodeLength.outImmAx (port : Byte) : EncodeLength.Statement (.outImmAx port) :=
  ⟨Nat.le_of_ble_eq_true rfl, Nat.le_of_ble_eq_true rfl⟩

theorem EncodeLength.outDxAl : EncodeLength.Statement (.outDxAl) :=
  ⟨Nat.le_of_ble_eq_true rfl, Nat.le_of_ble_eq_true rfl⟩

theorem EncodeLength.outDxAx : EncodeLength.Statement (.outDxAx) :=
  ⟨Nat.le_of_ble_eq_true rfl, Nat.le_of_ble_eq_true rfl⟩

theorem EncodeLength.insb : EncodeLength.Statement (.insb) :=
  ⟨Nat.le_of_ble_eq_true rfl, Nat.le_of_ble_eq_true rfl⟩

theorem EncodeLength.insw : EncodeLength.Statement (.insw) :=
  ⟨Nat.le_of_ble_eq_true rfl, Nat.le_of_ble_eq_true rfl⟩

theorem EncodeLength.outsb : EncodeLength.Statement (.outsb) :=
  ⟨Nat.le_of_ble_eq_true rfl, Nat.le_of_ble_eq_true rfl⟩

theorem EncodeLength.outsw : EncodeLength.Statement (.outsw) :=
  ⟨Nat.le_of_ble_eq_true rfl, Nat.le_of_ble_eq_true rfl⟩

theorem EncodeLength.lidt (src : MemRef) : EncodeLength.Statement (.lidt src) :=
  tail_two 0x0F 0x01 (encodeMem_length 3 src)

theorem EncodeLength.lgdt (src : MemRef) : EncodeLength.Statement (.lgdt src) :=
  tail_two 0x0F 0x01 (encodeMem_length 2 src)

theorem EncodeLength.lmsw (src : Rm Reg) : EncodeLength.Statement (.lmsw src) :=
  tail_two 0x0F 0x01 (encodeRmW_length 6 src)

theorem EncodeLength.movFromCr (cr : BitVec 3) (dst : Reg) : EncodeLength.Statement (.movFromCr cr dst) :=
  ⟨Nat.le_of_ble_eq_true rfl, Nat.le_of_ble_eq_true rfl⟩

theorem EncodeLength.movToCr (cr : BitVec 3) (src : Reg) : EncodeLength.Statement (.movToCr cr src) :=
  ⟨Nat.le_of_ble_eq_true rfl, Nat.le_of_ble_eq_true rfl⟩

theorem EncodeLength.clts : EncodeLength.Statement (.clts) :=
  ⟨Nat.le_of_ble_eq_true rfl, Nat.le_of_ble_eq_true rfl⟩

theorem EncodeLength.hlt : EncodeLength.Statement (.hlt) :=
  ⟨Nat.le_of_ble_eq_true rfl, Nat.le_of_ble_eq_true rfl⟩

theorem EncodeLength.invd : EncodeLength.Statement (.invd) :=
  ⟨Nat.le_of_ble_eq_true rfl, Nat.le_of_ble_eq_true rfl⟩

theorem EncodeLength.wbinvd : EncodeLength.Statement (.wbinvd) :=
  ⟨Nat.le_of_ble_eq_true rfl, Nat.le_of_ble_eq_true rfl⟩

theorem EncodeLength.invlpg (src : MemRef) : EncodeLength.Statement (.invlpg src) :=
  tail_two 0x0F 0x01 (encodeMem_length 7 src)

theorem EncodeLength.movFromDr (dr : BitVec 3) (dst : Reg) : EncodeLength.Statement (.movFromDr dr dst) :=
  ⟨Nat.le_of_ble_eq_true rfl, Nat.le_of_ble_eq_true rfl⟩

theorem EncodeLength.movToDr (dr : BitVec 3) (src : Reg) : EncodeLength.Statement (.movToDr dr src) :=
  ⟨Nat.le_of_ble_eq_true rfl, Nat.le_of_ble_eq_true rfl⟩

theorem EncodeLength.movFromTr (tr : BitVec 3) (dst : Reg) : EncodeLength.Statement (.movFromTr tr dst) :=
  ⟨Nat.le_of_ble_eq_true rfl, Nat.le_of_ble_eq_true rfl⟩

theorem EncodeLength.movToTr (tr : BitVec 3) (src : Reg) : EncodeLength.Statement (.movToTr tr src) :=
  ⟨Nat.le_of_ble_eq_true rfl, Nat.le_of_ble_eq_true rfl⟩

theorem EncodeLength.push (src : Reg) : EncodeLength.Statement (.push src) :=
  ⟨Nat.le_of_ble_eq_true rfl, Nat.le_of_ble_eq_true rfl⟩

theorem EncodeLength.movRRm (dst : Reg) (src : Rm Reg) : EncodeLength.Statement (.movRRm dst src) :=
  tail_one 0x8B (encodeRmW_length dst.num src)

theorem EncodeLength.movRmR (dst : Rm Reg) (src : Reg) : EncodeLength.Statement (.movRmR dst src) :=
  tail_one 0x89 (encodeRmW_length src.num dst)

theorem EncodeLength.xchg (dst : Rm Reg) (src : Reg) : EncodeLength.Statement (.xchg dst src) :=
  tail_one 0x87 (encodeRmW_length src.num dst)

theorem EncodeLength.movSregRm (sreg : BitVec 3) (src : Rm Reg) : EncodeLength.Statement (.movSregRm sreg src) :=
  tail_one 0x8E (encodeRmW_length sreg src)

theorem EncodeLength.movRmSreg (dst : Rm Reg) (sreg : BitVec 3) : EncodeLength.Statement (.movRmSreg dst sreg) :=
  tail_one 0x8C (encodeRmW_length sreg dst)

theorem EncodeLength.div8 (src : Rm Reg8) : EncodeLength.Statement (.div8 src) :=
  tail_one 0xF6 (encodeRm8_length 6 src)

theorem EncodeLength.divW (src : Rm Reg) : EncodeLength.Statement (.divW src) :=
  tail_one 0xF7 (encodeRmW_length 6 src)

theorem EncodeLength.idiv8 (src : Rm Reg8) : EncodeLength.Statement (.idiv8 src) :=
  tail_one 0xF6 (encodeRm8_length 7 src)

theorem EncodeLength.idivW (src : Rm Reg) : EncodeLength.Statement (.idivW src) :=
  tail_one 0xF7 (encodeRmW_length 7 src)

theorem EncodeLength.rol8One (dst : Rm Reg8) : EncodeLength.Statement (.rol8One dst) :=
  tail_one 0xD0 (encodeRm8_length 0 dst)

theorem EncodeLength.rolWOne (dst : Rm Reg) : EncodeLength.Statement (.rolWOne dst) :=
  tail_one 0xD1 (encodeRmW_length 0 dst)

theorem EncodeLength.rol8Cl (dst : Rm Reg8) : EncodeLength.Statement (.rol8Cl dst) :=
  tail_one 0xD2 (encodeRm8_length 0 dst)

theorem EncodeLength.rolWCl (dst : Rm Reg) : EncodeLength.Statement (.rolWCl dst) :=
  tail_one 0xD3 (encodeRmW_length 0 dst)

theorem EncodeLength.rol8Imm (dst : Rm Reg8) (count : Byte) : EncodeLength.Statement (.rol8Imm dst count) :=
  tail_imm 0xC0 count (encodeRm8_length 0 dst)

theorem EncodeLength.rolWImm (dst : Rm Reg) (count : Byte) : EncodeLength.Statement (.rolWImm dst count) :=
  tail_imm 0xC1 count (encodeRmW_length 0 dst)

theorem EncodeLength.ror8One (dst : Rm Reg8) : EncodeLength.Statement (.ror8One dst) :=
  tail_one 0xD0 (encodeRm8_length 1 dst)

theorem EncodeLength.rorWOne (dst : Rm Reg) : EncodeLength.Statement (.rorWOne dst) :=
  tail_one 0xD1 (encodeRmW_length 1 dst)

theorem EncodeLength.ror8Cl (dst : Rm Reg8) : EncodeLength.Statement (.ror8Cl dst) :=
  tail_one 0xD2 (encodeRm8_length 1 dst)

theorem EncodeLength.rorWCl (dst : Rm Reg) : EncodeLength.Statement (.rorWCl dst) :=
  tail_one 0xD3 (encodeRmW_length 1 dst)

theorem EncodeLength.ror8Imm (dst : Rm Reg8) (count : Byte) : EncodeLength.Statement (.ror8Imm dst count) :=
  tail_imm 0xC0 count (encodeRm8_length 1 dst)

theorem EncodeLength.rorWImm (dst : Rm Reg) (count : Byte) : EncodeLength.Statement (.rorWImm dst count) :=
  tail_imm 0xC1 count (encodeRmW_length 1 dst)

theorem EncodeLength.rcl8One (dst : Rm Reg8) : EncodeLength.Statement (.rcl8One dst) :=
  tail_one 0xD0 (encodeRm8_length 2 dst)

theorem EncodeLength.rclWOne (dst : Rm Reg) : EncodeLength.Statement (.rclWOne dst) :=
  tail_one 0xD1 (encodeRmW_length 2 dst)

theorem EncodeLength.rcl8Cl (dst : Rm Reg8) : EncodeLength.Statement (.rcl8Cl dst) :=
  tail_one 0xD2 (encodeRm8_length 2 dst)

theorem EncodeLength.rclWCl (dst : Rm Reg) : EncodeLength.Statement (.rclWCl dst) :=
  tail_one 0xD3 (encodeRmW_length 2 dst)

theorem EncodeLength.rcl8Imm (dst : Rm Reg8) (count : Byte) : EncodeLength.Statement (.rcl8Imm dst count) :=
  tail_imm 0xC0 count (encodeRm8_length 2 dst)

theorem EncodeLength.rclWImm (dst : Rm Reg) (count : Byte) : EncodeLength.Statement (.rclWImm dst count) :=
  tail_imm 0xC1 count (encodeRmW_length 2 dst)

theorem EncodeLength.rcr8One (dst : Rm Reg8) : EncodeLength.Statement (.rcr8One dst) :=
  tail_one 0xD0 (encodeRm8_length 3 dst)

theorem EncodeLength.rcrWOne (dst : Rm Reg) : EncodeLength.Statement (.rcrWOne dst) :=
  tail_one 0xD1 (encodeRmW_length 3 dst)

theorem EncodeLength.rcr8Cl (dst : Rm Reg8) : EncodeLength.Statement (.rcr8Cl dst) :=
  tail_one 0xD2 (encodeRm8_length 3 dst)

theorem EncodeLength.rcrWCl (dst : Rm Reg) : EncodeLength.Statement (.rcrWCl dst) :=
  tail_one 0xD3 (encodeRmW_length 3 dst)

theorem EncodeLength.rcr8Imm (dst : Rm Reg8) (count : Byte) : EncodeLength.Statement (.rcr8Imm dst count) :=
  tail_imm 0xC0 count (encodeRm8_length 3 dst)

theorem EncodeLength.rcrWImm (dst : Rm Reg) (count : Byte) : EncodeLength.Statement (.rcrWImm dst count) :=
  tail_imm 0xC1 count (encodeRmW_length 3 dst)

theorem EncodeLength.shl8One (dst : Rm Reg8) : EncodeLength.Statement (.shl8One dst) :=
  tail_one 0xD0 (encodeRm8_length 4 dst)

theorem EncodeLength.shlWOne (dst : Rm Reg) : EncodeLength.Statement (.shlWOne dst) :=
  tail_one 0xD1 (encodeRmW_length 4 dst)

theorem EncodeLength.shl8Cl (dst : Rm Reg8) : EncodeLength.Statement (.shl8Cl dst) :=
  tail_one 0xD2 (encodeRm8_length 4 dst)

theorem EncodeLength.shlWCl (dst : Rm Reg) : EncodeLength.Statement (.shlWCl dst) :=
  tail_one 0xD3 (encodeRmW_length 4 dst)

theorem EncodeLength.shl8Imm (dst : Rm Reg8) (count : Byte) : EncodeLength.Statement (.shl8Imm dst count) :=
  tail_imm 0xC0 count (encodeRm8_length 4 dst)

theorem EncodeLength.shlWImm (dst : Rm Reg) (count : Byte) : EncodeLength.Statement (.shlWImm dst count) :=
  tail_imm 0xC1 count (encodeRmW_length 4 dst)

theorem EncodeLength.shr8One (dst : Rm Reg8) : EncodeLength.Statement (.shr8One dst) :=
  tail_one 0xD0 (encodeRm8_length 5 dst)

theorem EncodeLength.shrWOne (dst : Rm Reg) : EncodeLength.Statement (.shrWOne dst) :=
  tail_one 0xD1 (encodeRmW_length 5 dst)

theorem EncodeLength.shr8Cl (dst : Rm Reg8) : EncodeLength.Statement (.shr8Cl dst) :=
  tail_one 0xD2 (encodeRm8_length 5 dst)

theorem EncodeLength.shrWCl (dst : Rm Reg) : EncodeLength.Statement (.shrWCl dst) :=
  tail_one 0xD3 (encodeRmW_length 5 dst)

theorem EncodeLength.shr8Imm (dst : Rm Reg8) (count : Byte) : EncodeLength.Statement (.shr8Imm dst count) :=
  tail_imm 0xC0 count (encodeRm8_length 5 dst)

theorem EncodeLength.shrWImm (dst : Rm Reg) (count : Byte) : EncodeLength.Statement (.shrWImm dst count) :=
  tail_imm 0xC1 count (encodeRmW_length 5 dst)

theorem EncodeLength.sar8One (dst : Rm Reg8) : EncodeLength.Statement (.sar8One dst) :=
  tail_one 0xD0 (encodeRm8_length 7 dst)

theorem EncodeLength.sarWOne (dst : Rm Reg) : EncodeLength.Statement (.sarWOne dst) :=
  tail_one 0xD1 (encodeRmW_length 7 dst)

theorem EncodeLength.sar8Cl (dst : Rm Reg8) : EncodeLength.Statement (.sar8Cl dst) :=
  tail_one 0xD2 (encodeRm8_length 7 dst)

theorem EncodeLength.sarWCl (dst : Rm Reg) : EncodeLength.Statement (.sarWCl dst) :=
  tail_one 0xD3 (encodeRmW_length 7 dst)

theorem EncodeLength.sar8Imm (dst : Rm Reg8) (count : Byte) : EncodeLength.Statement (.sar8Imm dst count) :=
  tail_imm 0xC0 count (encodeRm8_length 7 dst)

theorem EncodeLength.sarWImm (dst : Rm Reg) (count : Byte) : EncodeLength.Statement (.sarWImm dst count) :=
  tail_imm 0xC1 count (encodeRmW_length 7 dst)

theorem EncodeLength.opSizePfx : EncodeLength.Statement (.opSizePfx) :=
  ⟨Nat.le_of_ble_eq_true rfl, Nat.le_of_ble_eq_true rfl⟩

theorem EncodeLength.addrSizePfx : EncodeLength.Statement (.addrSizePfx) :=
  ⟨Nat.le_of_ble_eq_true rfl, Nat.le_of_ble_eq_true rfl⟩

theorem EncodeLength.esPfx : EncodeLength.Statement (.esPfx) :=
  ⟨Nat.le_of_ble_eq_true rfl, Nat.le_of_ble_eq_true rfl⟩

theorem EncodeLength.csPfx : EncodeLength.Statement (.csPfx) :=
  ⟨Nat.le_of_ble_eq_true rfl, Nat.le_of_ble_eq_true rfl⟩

theorem EncodeLength.ssPfx : EncodeLength.Statement (.ssPfx) :=
  ⟨Nat.le_of_ble_eq_true rfl, Nat.le_of_ble_eq_true rfl⟩

theorem EncodeLength.dsPfx : EncodeLength.Statement (.dsPfx) :=
  ⟨Nat.le_of_ble_eq_true rfl, Nat.le_of_ble_eq_true rfl⟩

theorem EncodeLength.fsPfx : EncodeLength.Statement (.fsPfx) :=
  ⟨Nat.le_of_ble_eq_true rfl, Nat.le_of_ble_eq_true rfl⟩

theorem EncodeLength.gsPfx : EncodeLength.Statement (.gsPfx) :=
  ⟨Nat.le_of_ble_eq_true rfl, Nat.le_of_ble_eq_true rfl⟩

theorem EncodeLength.lockPfx : EncodeLength.Statement (.lockPfx) :=
  ⟨Nat.le_of_ble_eq_true rfl, Nat.le_of_ble_eq_true rfl⟩

theorem EncodeLength.repnePfx : EncodeLength.Statement (.repnePfx) :=
  ⟨Nat.le_of_ble_eq_true rfl, Nat.le_of_ble_eq_true rfl⟩

theorem EncodeLength.repPfx : EncodeLength.Statement (.repPfx) :=
  ⟨Nat.le_of_ble_eq_true rfl, Nat.le_of_ble_eq_true rfl⟩

end Sys2Proof.Laws
end

