-- ==== Sys2Proof/Safety.lean ====
section
/-! DEFINITION. The terms in which claims are stated: the invariants of the machine, when an access or a port is open to an
instruction, the state that an instruction leaves behind, and the shift instructions by operation and count. -/

namespace Sys2Proof.Safety

open Sys2Proof.Machine

/-! Invariants. -/

/-- Every listed address is a 32-bit physical address (R40). -/
def addressesInRange (m : Memory) : Bool := m.all fun c => decide (c.1 < 2 ^ 32)

/-- Memory is in its canonical form and lists physical addresses only. -/
def memoryOk (s : State) : Bool := s.mem.wf && addressesInRange s.mem

/-- In V86 mode protection is enabled (R11) and CPL is 3 (R20); without protection CPL is 0 (R35). -/
def modeOk (s : State) : Bool := (!s.vm || (s.pe && s.cpl == 3)) && (s.pe || s.cpl == 0)

/-- In V86 mode every segment register holds what the 8086 rule makes of its selector: the base is the selector shifted left
by four bits, the limit FFFFH (R15, R41, R49). -/
def segmentsOk (s : State) : Bool :=
  !s.vm || [SReg.es, .cs, .ss, .ds, .fs, .gs].all fun r => s.seg r == seg8086 (s.sel r)

/-- The bytes fetched of the current instruction are at most 15 (R70), those of a repeated instruction between two iterations too. -/
def lengthOk (s : State) : Bool := decide (s.ilen ≤ 15) && s.iterating.all fun r => decide (r.ilen ≤ 15)

/-- A step that answers no fault. -/
def noFault (o : Out) : Bool :=
  match o with
  | .fault _ => false
  | _ => true

/-! When an access, or a port, is open. -/

/-- The addresses `pas` of the `n` bytes that an access of kind `k` at an offset of a segment goes to: the bytes lie inside the
segment (R45, R46), D17's excluded case does not hold (R56), and each byte is translated (R44). -/
def Accesses (s : State) (k : Access) (r : SReg) (off : Dword) (n : Nat) (pas : List Nat) : Prop :=
  s.inSegment r off n = true ∧ s.alignmentTrap (s.lin r off) n = false ∧ physAddrs s k s.priv (s.lin r off) n = .ok pas

/-- The bytes of a field of a TSS, where paging is off and the TSS does not wrap at 2^32 (R26). -/
def tssBytes (base : Dword) (at' n : Nat) : List Nat := (List.range n).map fun i => base.toNat + at' + i

/-- An 8-bit operand can be read, and its value is `v`. -/
def ReadsByte (s : State) (x : Rm Reg8) (v : Byte) : Prop :=
  match x with
  | .reg r => v = s.reg8 r
  | .mem m => ∃ pas, Accesses s .read (operandSeg s m) (effAddr s m) 1 pas ∧ v = (s.mem.readAll pas).setWidth 8

/-- An operand of the operand size can be read, and its zero-extended value is `v`. -/
def ReadsWide (s : State) (x : Rm Reg) (v : Dword) : Prop :=
  match x with
  | .reg r => v = s.regW s.op32 r
  | .mem m => ∃ pas, Accesses s .read (operandSeg s m) (effAddr s m) s.opBytes pas ∧ v = s.mem.readAll pas

/-- A 16-bit operand can be read, and its value is `v`. -/
def ReadsWord (s : State) (x : Rm Reg) (v : Word) : Prop :=
  match x with
  | .reg r => v = s.reg16 r
  | .mem m => ∃ pas, Accesses s .read (operandSeg s m) (effAddr s m) 2 pas ∧ v = (s.mem.readAll pas).setWidth 16

/-- An operand of `n` bytes can be written; in memory, at the addresses `pas`. -/
def Writes {ρ : Type} (s : State) (x : Rm ρ) (n : Nat) (pas : List Nat) : Prop :=
  match x with
  | .reg _ => True
  | .mem m => Accesses s .write (operandSeg s m) (effAddr s m) n pas

/-- Each of the `n` ports from `p` up exists and its bit in the bitmap is 0 (R120). -/
def PortsOpen (s : State) (p n : Nat) : Prop := ∀ k, k < n → p + k ≤ 0xFFFF ∧ ioBit s (p + k) = .ok false

/-- One of the `n` ports from `p` up does not exist or has bit 1 in the bitmap, all those before it being open (R120). -/
def PortsClosed (s : State) (p n : Nat) : Prop :=
  ∃ k, k < n ∧ PortsOpen s p k ∧ (0xFFFF < p + k ∨ ioBit s (p + k) = .ok true)

/-- Privileged instructions execute: real-address mode, or protected mode at CPL 0 (R155). -/
def MayUsePrivileged (s : State) : Prop := s.vm = false ∧ (s.pe = true → s.cpl = 0)

/-- Whether the boundary before the next instruction is quiet: the environment offers nothing, no event is taken, and the
processor is not halted; between a prefix byte and its instruction there is no boundary. At a boundary inside a repeated
instruction it may be quiet too. -/
def quiet (s : State) : Bool :=
  s.ilen != 0 ||
    (s.extEvents.isEmpty && !s.takesTrap && !s.takesNmi && (!s.acceptsIrq || s.irqs.isEmpty) && !s.halted)

/-- The bytes of an instruction stand where the next ones are fetched: at CS:EIP past the bytes fetched already, inside the
segment and the 15 bytes (R47, R70), at addresses not written since the last control transfer (R60). -/
def CodeAt (s : State) : Nat → List Byte → Prop
  | _, [] => True
  | k, b :: bs => fetchByte s k = .ok b ∧ CodeAt s (k + 1) bs

/-- What delivery of an event through a trap or interrupt gate needs (R203, R231): the gate, its target code segment, SS0:ESP0
of a 32-bit TSS, SS0 valid, and room for the frame. The state `u` is `s` with the frame pushed, and ESP is then `esp`. -/
structure GateOpen (s : State) (ev : Event) (g : Gate) (code : SegDesc) (ss0 : Word) (stack : SegDesc)
    (esp0 : Dword) (u : State) (esp : Dword) : Prop where
  gate : readGate s ev.vector = .ok g
  present : g.present = true
  kind : g.kind = .trap32 ∨ g.kind = .int32
  target : s.segDesc g.sel = some code
  isCode : code.code = true
  nonconforming : code.conforming = false
  level0 : code.dpl = 0
  tss : s.tr.is286 = false
  readsEsp0 : readTss s 0x04 4 = .ok esp0
  readsSs0 : readTss s 0x08 2 = .ok (ss0.setWidth 32)
  stackSeg : s.segDesc ss0 = some stack
  stackValid : ss0 &&& 0xFFFC ≠ 0 ∧ stack.code = false ∧ stack.dpl = 0 ∧ ss0.extractLsb' 0 2 = 0
  frame : pushFrame s stack esp0 (frameWords s ev) = .ok (u, esp)

/-! What an instruction leaves behind. -/

/-- A fault with a vector and an error code: delivered from the state in which the instruction began, unchanged, with the EIP
of its first prefix byte saved (R212, R213). -/
def faults (s : State) (vector : Byte) (err : Option Dword) : Out :=
  deliver s { vector := vector, err := err, ext := false, ret := s.eip, trap := false }

/-- The state after an instruction that began in `s` and had the effects `u`: EIP past it (R17), nothing left of its prefix
bytes, the shadow of the instruction before it over (R33), and a single-step trap pending if TF was 1 (R215). -/
def completed (s u : State) : State :=
  { u with
    eip := s.eip + BitVec.ofNat 32 s.ilen
    ilen := 0
    pfx := Pfx.none
    iterating := none
    intShadow := false
    ssShadow := false
    trapPending := s.trapPending || s.eflags.tf }

/-- The state after an instruction that transferred control to the EIP in `u`: R60 forgets what was written. -/
def jumped (s u : State) : State := { completed s u with eip := u.eip, written := [] }

/-- The state after an iteration of a string instruction with the effects `u` (R133): without a repeat prefix byte, or with
the last of the repeated ones, the instruction is complete; else EIP is still at its first prefix byte, and the instruction that
was decoded goes on. -/
def iterated (op : StringIo) (s u : State) : State :=
  if s.pfx.rep = none then completed s u
  else if s.stringReg .ecx = 1 then completed s (u.setStringReg .ecx 0)
  else { u.setStringReg .ecx (s.stringReg .ecx - 1) with
         ilen := 0, pfx := Pfx.none, intShadow := s.intShadow, ssShadow := s.ssShadow
         iterating := some { op := op, ilen := s.ilen, pfx := s.pfx } }

/-- The state at the handler's first instruction (R203, R205, R222). The state `u` is that after the frame was pushed; `trap`
says that the delivery completed an INT n begun with TF = 1 (R215). What becomes of a pending single-step trap, of the shadows
and of a halt is the model's reading (log 23, 41). -/
def inHandler (u : State) (trap : Bool) (g : Gate) (code : SegDesc) (ss0 : Word) (stack : SegDesc) (esp : Dword) : State :=
  { u with
    regs := u.regs.set .esp esp
    segs := { cs := descSeg g.sel code, ss := descSeg ss0 stack, ds := nullSeg 0, es := nullSeg 0, fs := nullSeg 0,
              gs := nullSeg 0 }
    eip := g.offset
    eflags := { u.eflags with
                vm := false, tf := false, nt := false, rf := false
                intf := if g.kind = .int32 then false else u.eflags.intf }
    cpl := 0
    trapPending := u.trapPending || trap
    intShadow := false
    ssShadow := false
    halted := false
    written := []
    ilen := 0
    pfx := Pfx.none
    iterating := none }

/-- What a read of `n` bytes of a port answers now: the low 8n bits of a free value (R134, U22, log 12). -/
def portAnswer (s : State) (port : Word) (n : Nat) : Dword :=
  BitVec.ofNat 32 ((Config.ioAnswer s.draws port n).toNat % 2 ^ (8 * n))

/-- The state with a read of `n` bytes of a port made: recorded with its value, and one free value drawn (R134, log 12). -/
def inputMade (u : State) (port : Word) (n : Nat) : State :=
  { u with ioTrace := .input port n (portAnswer u port n) :: u.ioTrace, draws := u.draws + 1 }

/-- The state with a write of the low `n` bytes of a value to a port made: recorded with them (R134, log 12). -/
def outputMade (u : State) (port : Word) (n : Nat) (v : Dword) : State :=
  { u with ioTrace := .output port n (BitVec.ofNat 32 (v.toNat % 2 ^ (8 * n))) :: u.ioTrace }

/-- The state `u` with the six arithmetic flags left undefined by a divide begun in `s`: each a fresh free value, drawn in the
order CF, OF, SF, ZF, AF, PF (R171, U1, log 9); every other flag is that of `s`. -/
def divideLeaves (s u : State) : State :=
  { u with
    eflags := { s.eflags with
                cf := Config.drawBit s.draws, of := Config.drawBit (s.draws + 1), sf := Config.drawBit (s.draws + 2)
                zf := Config.drawBit (s.draws + 3), af := Config.drawBit (s.draws + 4), pf := Config.drawBit (s.draws + 5) }
    draws := s.draws + 6 }

/-- The number of 1 bits of a byte is even: what PF says (R19). -/
def evenOnes (b : Byte) : Bool := ((List.range 8).filter fun i => b.getLsbD i).length % 2 == 0

/-- The value of an effective address's displacement byte, sign-extended modulo 2^m (R79). -/
def signedByte (m : Nat) (d : Byte) : Nat := if d.toNat < 128 then d.toNat else 2 ^ m - 256 + d.toNat

/-- The state with a byte operand written; in memory, at the addresses `pas`. -/
def putByte (s : State) (x : Rm Reg8) (pas : List Nat) (v : Byte) : State :=
  match x with
  | .reg r => s.setReg8 r v
  | .mem _ => s.storeAt pas (v.setWidth 32)

/-- The state with an operand of the operand size written; in memory, at the addresses `pas`. -/
def putWide (s : State) (x : Rm Reg) (pas : List Nat) (v : Dword) : State :=
  match x with
  | .reg r => s.setRegW s.op32 r v
  | .mem _ => s.storeAt pas v

/-! The shift and rotate instructions by operation and form of the count (R183). -/

/-- Where the count of a shift comes from. -/
inductive CountForm where
  | one
  | cl
  | imm (count : Byte)
deriving DecidableEq, Repr

/-- The count of a form. -/
def CountForm.count (f : CountForm) (s : State) : Byte :=
  match f with
  | .one => 1
  | .cl => s.reg8 .cl
  | .imm c => c

/-- The shift or rotate of an 8-bit operand: the rows D0, D2 and C0 of the opcode table. -/
def byteShift (op : ShiftOp) (f : CountForm) (dst : Rm Reg8) : Instr :=
  match op, f with
  | .rol, .one => .rol8One dst | .rol, .cl => .rol8Cl dst | .rol, .imm c => .rol8Imm dst c
  | .ror, .one => .ror8One dst | .ror, .cl => .ror8Cl dst | .ror, .imm c => .ror8Imm dst c
  | .rcl, .one => .rcl8One dst | .rcl, .cl => .rcl8Cl dst | .rcl, .imm c => .rcl8Imm dst c
  | .rcr, .one => .rcr8One dst | .rcr, .cl => .rcr8Cl dst | .rcr, .imm c => .rcr8Imm dst c
  | .shl, .one => .shl8One dst | .shl, .cl => .shl8Cl dst | .shl, .imm c => .shl8Imm dst c
  | .shr, .one => .shr8One dst | .shr, .cl => .shr8Cl dst | .shr, .imm c => .shr8Imm dst c
  | .sar, .one => .sar8One dst | .sar, .cl => .sar8Cl dst | .sar, .imm c => .sar8Imm dst c

/-- The shift or rotate of an operand of the operand size: the rows D1, D3 and C1 of the opcode table. -/
def wideShift (op : ShiftOp) (f : CountForm) (dst : Rm Reg) : Instr :=
  match op, f with
  | .rol, .one => .rolWOne dst | .rol, .cl => .rolWCl dst | .rol, .imm c => .rolWImm dst c
  | .ror, .one => .rorWOne dst | .ror, .cl => .rorWCl dst | .ror, .imm c => .rorWImm dst c
  | .rcl, .one => .rclWOne dst | .rcl, .cl => .rclWCl dst | .rcl, .imm c => .rclWImm dst c
  | .rcr, .one => .rcrWOne dst | .rcr, .cl => .rcrWCl dst | .rcr, .imm c => .rcrWImm dst c
  | .shl, .one => .shlWOne dst | .shl, .cl => .shlWCl dst | .shl, .imm c => .shlWImm dst c
  | .shr, .one => .shrWOne dst | .shr, .cl => .shrWCl dst | .shr, .imm c => .shrWImm dst c
  | .sar, .one => .sarWOne dst | .sar, .cl => .sarWCl dst | .sar, .imm c => .sarWImm dst c

/-! Accesses to memory operands in V86 mode, and the LOCK prefix byte before an opcode without a rule. -/

/-- What string I/O needs before its memory operand is reached: its ports are open, and a repeated one has iterations left
(R133, D25). -/
def StringReady (s : State) (n : Nat) : Prop :=
  PortsOpen s (s.reg16 .edx).toNat n ∧ (s.pfx.rep = none ∨ s.stringReg .ecx ≠ 0)

/-- In V86 mode the instruction comes, with its checks before it passed, to this access of its operand in memory: its kind,
segment, offset and width. A read-modify-write comes to its write when the read succeeded. -/
inductive Reaches (s : State) : Instr → Access → SReg → Dword → Nat → Prop where
  | movLoad (r : Reg) (m : MemRef) : Reaches s (.movRRm r (.mem m)) .read (operandSeg s m) (effAddr s m) s.opBytes
  | movStore (m : MemRef) (r : Reg) : Reaches s (.movRmR (.mem m) r) .write (operandSeg s m) (effAddr s m) s.opBytes
  | xchgRead (m : MemRef) (r : Reg) : Reaches s (.xchg (.mem m) r) .read (operandSeg s m) (effAddr s m) s.opBytes
  | xchgWrite (m : MemRef) (r : Reg) (pas : List Nat) :
      Accesses s .read (operandSeg s m) (effAddr s m) s.opBytes pas →
      Reaches s (.xchg (.mem m) r) .write (operandSeg s m) (effAddr s m) s.opBytes
  | loadSreg (n : BitVec 3) (m : MemRef) : n ≠ 1 → n.toNat < 6 →
      Reaches s (.movSregRm n (.mem m)) .read (operandSeg s m) (effAddr s m) 2
  | storeSreg (m : MemRef) (n : BitVec 3) : n.toNat < 6 →
      Reaches s (.movRmSreg (.mem m) n) .write (operandSeg s m) (effAddr s m) 2
  | div8 (m : MemRef) : Reaches s (.div8 (.mem m)) .read (operandSeg s m) (effAddr s m) 1
  | idiv8 (m : MemRef) : Reaches s (.idiv8 (.mem m)) .read (operandSeg s m) (effAddr s m) 1
  | divW (m : MemRef) : Reaches s (.divW (.mem m)) .read (operandSeg s m) (effAddr s m) s.opBytes
  | idivW (m : MemRef) : Reaches s (.idivW (.mem m)) .read (operandSeg s m) (effAddr s m) s.opBytes
  | byteShiftRead (op : ShiftOp) (f : CountForm) (m : MemRef) :
      Reaches s (byteShift op f (.mem m)) .read (operandSeg s m) (effAddr s m) 1
  | byteShiftWrite (op : ShiftOp) (f : CountForm) (m : MemRef) (pas : List Nat) : (f.count s).toNat % 32 ≠ 0 →
      Accesses s .read (operandSeg s m) (effAddr s m) 1 pas →
      Reaches s (byteShift op f (.mem m)) .write (operandSeg s m) (effAddr s m) 1
  | wideShiftRead (op : ShiftOp) (f : CountForm) (m : MemRef) :
      Reaches s (wideShift op f (.mem m)) .read (operandSeg s m) (effAddr s m) s.opBytes
  | wideShiftWrite (op : ShiftOp) (f : CountForm) (m : MemRef) (pas : List Nat) : (f.count s).toNat % 32 ≠ 0 →
      Accesses s .read (operandSeg s m) (effAddr s m) s.opBytes pas →
      Reaches s (wideShift op f (.mem m)) .write (operandSeg s m) (effAddr s m) s.opBytes
  | push (r : Reg) :
      Reaches s (.push r) .write .ss ((s.reg16 .esp - BitVec.ofNat 16 s.opBytes).setWidth 32) s.opBytes
  | pushf : s.iopl = 3 →
      Reaches s .pushf .write .ss ((s.reg16 .esp - BitVec.ofNat 16 s.opBytes).setWidth 32) s.opBytes
  | popf : s.iopl = 3 → Reaches s .popf .read .ss ((s.reg16 .esp).setWidth 32) s.opBytes
  | insb : StringReady s 1 → Reaches s .insb .write .es (s.stringReg .edi) 1
  | insw : StringReady s s.opBytes → Reaches s .insw .write .es (s.stringReg .edi) s.opBytes
  | outsb : StringReady s 1 → Reaches s .outsb .read (s.pfx.seg.getD .ds) (s.stringReg .esi) 1
  | outsw : StringReady s s.opBytes → Reaches s .outsw .read (s.pfx.seg.getD .ds) (s.stringReg .esi) s.opBytes

/-- What an illegal LOCK prefix byte raises: #UD, or #GP(0) in V86 mode with IOPL below 3 on the reading that LOCK is sensitive to
IOPL (R190, R110). -/
def lockFaults (s : State) : Out :=
  if s.vm = true ∧ s.iopl < 3 ∧ Config.lockIoplSensitive = true then faults s 13 (some 0) else faults s 6 none

/-- R190's `Lockable` by the opcode bytes and a ModRM byte that names memory, but for XCHG 87, which is a row of the table. -/
def lockableBytes : List Byte → Bool
  | b :: m :: r =>
    if b = 0x0F then
      match r with
      | m2 :: _ =>
        decide (modField m2 ≠ 3) &&
          (m ∈ [0xC0, 0xC1, 0xB0, 0xB1, 0xAB, 0xB3, 0xBB] || (m = 0xBA && decide (regField m2 ∈ [5, 6, 7])))
      | [] => false
    else
      decide (modField m ≠ 3) &&
        (b ∈ [0x00, 0x01, 0x08, 0x09, 0x10, 0x11, 0x18, 0x19, 0x20, 0x21, 0x28, 0x29, 0x30, 0x31, 0x86] ||
          (b ∈ [0x80, 0x81, 0x83] && decide (regField m ≠ 7)) ||
          (b ∈ [0xFE, 0xFF] && decide (regField m ∈ [0, 1])) || (b ∈ [0xF6, 0xF7] && decide (regField m ∈ [2, 3])))
  | _ => false

end Sys2Proof.Safety
end

