-- ==== Sys2Proof/Certificates/Slice0/Obligations.lean ====
section
/-! DEFINITION. The statements for the provers. -/

open Sys2Proof Sys2Proof.Machine Sys2Proof.Safety

/-! Reset and invariants. -/

/-- R35, R250: the values that the spec gives for reset, and real-address mode. -/
def Obligations.ResetState : Prop :=
  State.reset.mode = .real ∧ State.reset.eflags.word = 0x00000002 ∧ State.reset.eip = 0x0000FFF0 ∧
    State.reset.sel .cs = 0xF000 ∧ (State.reset.seg .cs).base = 0xFFFF0000 ∧ (State.reset.seg .cs).limit = 0xFFFF ∧
    (∀ r, r ≠ SReg.cs →
      State.reset.sel r = 0 ∧ (State.reset.seg r).base = 0 ∧ (State.reset.seg r).limit = 0xFFFF) ∧
    State.reset.ctrl.cr0 = 0x60000010 ∧ State.reset.idtr = { base := 0, limit := 0x03FF } ∧ State.reset.cpl = 0 ∧
    State.reset.nmiMasked = false ∧ State.reset.intShadow = false

/-- The invariants hold at reset. The reset values that the spec does not give are the model's (log 3 to 8). -/
def Obligations.ResetMeetsInvariants : Prop :=
  memoryOk State.reset = true ∧ modeOk State.reset = true ∧ segmentsOk State.reset = true ∧ lengthOk State.reset = true

/-- Every step keeps memory canonical, with 32-bit physical addresses only (R40, R34). The canonical form is the model's own
(log 8). -/
def Obligations.StepKeepsMemoryCanonical : Prop :=
  ∀ s t : State, memoryOk s = true → step s = .next t → memoryOk t = true

/-- Every step keeps the mode legal and the V86 segment registers 8086 ones: V86 mode has CPL 3 (R20) and protection enabled
(R11), and its segment bases are the selectors shifted left by four bits (R15, R41, R49). That a processor without protection
has CPL 0 is R35's for reset and the model's after it (log 2, 17). -/
def Obligations.StepKeepsModeLegal : Prop :=
  ∀ s t : State, modeOk s = true → segmentsOk s = true → step s = .next t → modeOk t = true ∧ segmentsOk t = true

/-- R70: no step ever has more than 15 bytes of an instruction fetched, a repeated one between two iterations (log 28) included. -/
def Obligations.StepKeepsLengthBound : Prop :=
  ∀ s t : State, lengthOk s = true → step s = .next t → lengthOk t = true

/-! Encoding, decoding, fetching. -/

/-- Decoding the bytes of any well-formed instruction, whatever follows them, gives it back with its length, in the address
size that its memory operand needs (R83, R76, R78). That a prefix byte is an instruction of its own is the model's choice (log
1). -/
def Obligations.DecodeEncodeRoundTrip : Prop :=
  ∀ (i : Instr) (a32 : Bool) (rest : List Byte), i.wf = true → i.fitsAddressSize a32 = true →
    decode a32 (encode i ++ rest) = .ok i (encode i).length

/-- Some of the spec's own byte sequences decode to the instructions that it names (95_test_vectors). That the prefix bytes 67 of
`67 8B 03` and F0 are instructions of their own, so that 8B 03 is decoded in the address size that 67 left and F0 decodes to
`lockPfx`, is the model's choice (log 1). -/
def Obligations.DecodeSpecWords : Prop :=
  decode false [0x8B, 0xEC] = .ok (.movRRm .ebp (.reg .esp)) 2 ∧
    decode false [0x87, 0x6E, 0x00] = .ok (.xchg (.mem (.a16 (.based .bp (.d8 0)))) .ebp) 3 ∧
    decode false [0xCD, 0x21] = .ok (.intN 0x21) 2 ∧
    decode false [0x0F, 0x01, 0x1E, 0x00, 0x10] = .ok (.lidt (.a16 (.direct 0x1000))) 5 ∧
    decode false [0x0F, 0x20, 0xC0] = .ok (.movFromCr 0 .eax) 3 ∧
    decode false [0xF6, 0xFB] = .ok (.idiv8 (.reg .bl)) 2 ∧
    decode false [0xC1, 0xF8, 0x1F] = .ok (.sarWImm (.reg .eax) 0x1F) 3 ∧
    decode false [0xEE] = .ok .outDxAl 1 ∧
    decode true [0x8B, 0x03] = .ok (.movRRm .eax (.mem (.a32 (.based .ebx .none)))) 2 ∧
    decode false [0xF0] = .ok .lockPfx 1

/-- R70: without its prefix bytes every instruction is 1 to 8 bytes long. -/
def Obligations.EncodedLengthBounds : Prop := ∀ i : Instr, Sys2Proof.Laws.EncodeLength.Statement i

/-- A step runs the decoded instruction: when the boundary is quiet and the bytes that can be fetched decode to an
instruction, the step is its meaning at the state that counts those bytes. R133, R84: between two iterations of a repeated
instruction the step is its meaning again, with the length and the prefix bytes that it was decoded with: nothing is fetched,
whatever stands at CS:EIP. `ilen` and the prefix bytes are log 1, an iteration a step log 28. -/
def Obligations.StepRunsDecoded : Prop :=
  (∀ (s : State) (i : Instr) (n : Nat), quiet s = true → s.iterating = none → decode s.addr32 s.window.1 = .ok i n →
    step s = exec i { s with ilen := s.ilen + n }) ∧
  (∀ (s : State) (r : Iteration), quiet s = true → s.iterating = some r →
    step s =
      exec (match r.op with
        | .insb => .insb
        | .insw => .insw
        | .outsb => .outsb
        | .outsw => .outsw) { s with ilen := r.ilen, pfx := r.pfx, iterating := none })

/-- R84: when the encoding of a well-formed instruction stands at CS:EIP past the bytes already fetched, and the boundary is
quiet, the step fetches, decodes and executes exactly that instruction. `ilen` and the prefix bytes are log 1. -/
def Obligations.StepExecutesEncoded : Prop :=
  ∀ (s : State) (i : Instr), quiet s = true → s.iterating = none → i.wf = true → i.fitsAddressSize s.addr32 = true →
    CodeAt s s.ilen (encode i) → step s = exec i { s with ilen := s.ilen + (encode i).length }

/-- R70, D33, R47, R51, R60: the bytes of the current instruction past those fetched by earlier steps are `bs` so far, and they do
not make an instruction yet. Then the next byte is fetched: a sixteenth one raises #GP(0); in V86 mode one past offset 65535
raises #GP(0), one whose address does not translate raises the page fault, and one that was written since the last control
transfer is refused. Every exception saves the address of the first byte. With `bs` empty this is the first byte that the step
fetches. That prefix bytes were fetched by earlier steps is log 1. -/
def Obligations.FetchLimitFaults : Prop :=
  ∀ (s : State) (bs : List Byte), quiet s = true → s.iterating = none → CodeAt s s.ilen bs → decode s.addr32 bs = .more →
    let k := s.ilen + bs.length
    let off := s.eip + BitVec.ofNat 32 k
    (15 ≤ k → step s = faults s 13 (some 0)) ∧
    (k < 15 → s.vm = true → 0xFFFF < off.toNat → step s = faults s 13 (some 0)) ∧
    (k < 15 → s.vm = true → off.toNat ≤ 0xFFFF →
      (∀ e, linToPhys s ((s.seg .cs).base + off) .fetch .user = .error (.exc e) → step s = raise s e) ∧
      (∀ pa, linToPhys s ((s.seg .cs).base + off) .fetch .user = .ok pa → pa.toNat ∈ s.written →
        step s = .refused .staleFetch))

/-- R81, R82, R190, R192, R193, R225, U14: the opcodes outside the opcode table. In V86 mode ARPL, LAR, LSL and the group 0F 00 /0
to /5 raise #UD. At an ESC, D8 to DF with its ModRM byte, or WAIT a pending floating-point error is reported, #MF, vector 16, with
the address of the first byte saved, before the check of a LOCK prefix byte; with none pending they are refused. An opcode without a
rule is refused. LOCK before any of them raises #UD, or #GP(0) on the reading of R110, but for the opcodes without a rule that R190
lists with a memory operand, which are refused. That WAIT is 9B, and the order of the report and the other checks, are the model's
(log 30), and so are that the operand bytes of an opcode without a rule are not fetched, though LOCK stand before it (log 49), that
the opcodes of R81 are fetched with a ModRM byte (log 52), and that the error reported is no longer pending even if its gate fails
R206's check (log 53). -/
def Obligations.OpcodesOutsideTheTable : Prop :=
  (∀ (a32 : Bool) (b m : Byte) (r : List Byte), (parseRm a32 m r).isSome = true →
    decode a32 (0x63 :: m :: r) = .unsupported ∧ decode a32 (0x0F :: 0x02 :: m :: r) = .unsupported ∧
      decode a32 (0x0F :: 0x03 :: m :: r) = .unsupported ∧
      ((regField m).toNat ≤ 5 → decode a32 (0x0F :: 0x00 :: m :: r) = .unsupported) ∧
      (0xD8 ≤ b.toNat → b.toNat ≤ 0xDF → decode a32 (b :: m :: r) = .escOrWait) ∧
      decode a32 (0x9B :: r) = .escOrWait) ∧
  (∀ s : State, quiet s = true → s.iterating = none →
    (s.vm = true → s.pfx.lock = false → decode s.addr32 s.window.1 = .unsupported → step s = faults s 6 none) ∧
    (decode s.addr32 s.window.1 = .escOrWait →
      (s.fpPending = true →
        step s =
          deliver { s with fpPending := false } { vector := 16, err := none, ext := false, ret := s.eip, trap := false }) ∧
      (s.fpPending = false → s.pfx.lock = false → step s = .refused .floatingPoint) ∧
      (s.fpPending = false → s.pfx.lock = true → step s = lockFaults s)) ∧
    (s.vm = true → s.pfx.lock = true → decode s.addr32 s.window.1 = .unsupported → step s = lockFaults s) ∧
    (∀ l, decode s.addr32 s.window.1 = .noRule l →
      l = lockableBytes s.window.1 ∧
      (s.pfx.lock = false → step s = .refused .noRule) ∧
      (s.pfx.lock = true → l = false → step s = lockFaults s) ∧
      (s.pfx.lock = true → l = true →
        step s =
          if s.vm = true ∧ s.iopl < 3 ∧ Config.lockIoplSensitive = true then faults s 13 (some 0)
          else .refused .noRule)))

/-! Prefix bytes. -/

/-- R71: each prefix byte only records itself; repeated ones are redundant and the last segment override counts (log 1). -/
def Obligations.PrefixBytesRecord : Prop :=
  ∀ s : State,
    exec .opSizePfx s = .next { s with pfx := { s.pfx with opSize := true } } ∧
    exec .addrSizePfx s = .next { s with pfx := { s.pfx with addrSize := true } } ∧
    exec .esPfx s = .next { s with pfx := { s.pfx with seg := some .es } } ∧
    exec .csPfx s = .next { s with pfx := { s.pfx with seg := some .cs } } ∧
    exec .ssPfx s = .next { s with pfx := { s.pfx with seg := some .ss } } ∧
    exec .dsPfx s = .next { s with pfx := { s.pfx with seg := some .ds } } ∧
    exec .fsPfx s = .next { s with pfx := { s.pfx with seg := some .fs } } ∧
    exec .gsPfx s = .next { s with pfx := { s.pfx with seg := some .gs } } ∧
    exec .lockPfx s = .next { s with pfx := { s.pfx with lock := true } } ∧
    exec .repnePfx s = .next { s with pfx := { s.pfx with rep := some .repne } } ∧
    exec .repPfx s = .next { s with pfx := { s.pfx with rep := some .rep } }

/-- R72, R73, R74: in V86 mode the operand and the address size are 16, and 32 with their prefix byte; the segment of a memory
operand is the override if there is one, else SS for a base register BP, EBP or ESP and DS otherwise. -/
def Obligations.PrefixBytesSelectSizesAndSegment : Prop :=
  ∀ (s : State) (m : MemRef), s.vm = true →
    s.op32 = s.pfx.opSize ∧ s.opBytes = (if s.pfx.opSize then 4 else 2) ∧ s.addr32 = s.pfx.addrSize ∧
    (∀ r, s.pfx.seg = some r → operandSeg s m = r) ∧
    (s.pfx.seg = none → operandSeg s m =
      match m with
      | .a16 (.based .bpsi _) | .a16 (.based .bpdi _) | .a16 (.based .bp _) => .ss
      | .a32 (.based .ebp _) | .a32 (.based .esp _) | .a32 (.sib _ _ .ebp _) | .a32 (.sib _ _ .esp _) => .ss
      | _ => .ds)

/-- R76, R78, R79: the effective address of each 16-bit form is the sum of its registers and its displacement modulo 2^16, and
that of each 32-bit form the sum of base, index shifted left by the scale and displacement modulo 2^32; a displacement byte is
sign-extended, and the index number of ESP means no index. -/
def Obligations.EffectiveAddresses : Prop :=
  ∀ s : State,
    let bx := s.regs.ebx.toNat
    let bp := s.regs.ebp.toNat
    let si := s.regs.esi.toNat
    let di := s.regs.edi.toNat
    (∀ d, (effAddr s (.a16 (.direct d))).toNat = d.toNat) ∧
    (∀ b d, (effAddr s (.a16 (.based b d))).toNat =
      ((match b with
        | .bxsi => bx + si | .bxdi => bx + di | .bpsi => bp + si | .bpdi => bp + di
        | .si => si | .di => di | .bp => bp | .bx => bx) +
        (match d with
        | .none => 0 | .d8 d => signedByte 16 d | .d16 d => d.toNat)) % 2 ^ 16) ∧
    (∀ d, (effAddr s (.a32 (.direct d))).toNat = d.toNat) ∧
    (∀ b d, (effAddr s (.a32 (.based b d))).toNat =
      ((s.reg b).toNat +
        (match d with
        | .none => 0 | .d8 d => signedByte 32 d | .d32 d => d.toNat)) % 2 ^ 32) ∧
    (∀ sc ix b d, (effAddr s (.a32 (.sib sc ix b d))).toNat =
      ((s.reg b).toNat + (if ix = .esp then 0 else (s.reg ix).toNat * 2 ^ sc.toNat) +
        (match d with
        | .none => 0 | .d8 d => signedByte 32 d | .d32 d => d.toNat)) % 2 ^ 32) ∧
    (∀ sc ix d, (effAddr s (.a32 (.sibDisp sc ix d))).toNat =
      ((if ix = .esp then 0 else (s.reg ix).toNat * 2 ^ sc.toNat) + d.toNat) % 2 ^ 32)

/-- R13: the general registers and their parts. AX is bits 15:0 of EAX, AL bits 7:0 and AH bits 15:8, and so for the others; a
write of a register or of a part reads back, and leaves the other bits of the register, every other register and the rest of the
state unchanged. -/
def Obligations.GeneralRegisterParts : Prop :=
  ∀ s : State,
    (s.reg .eax = s.regs.eax ∧ s.reg .ecx = s.regs.ecx ∧ s.reg .edx = s.regs.edx ∧ s.reg .ebx = s.regs.ebx ∧
      s.reg .esp = s.regs.esp ∧ s.reg .ebp = s.regs.ebp ∧ s.reg .esi = s.regs.esi ∧ s.reg .edi = s.regs.edi) ∧
    (∀ r v, s.setReg r v = { s with regs := (s.setReg r v).regs } ∧
      ∀ q, (s.setReg r v).reg q = if q = r then v else s.reg q) ∧
    (∀ r, (s.reg16 r).toNat = (s.reg r).toNat % 2 ^ 16) ∧
    (∀ r v, s.setReg16 r v = s.setReg r (BitVec.ofNat 32 ((s.reg r).toNat / 2 ^ 16 * 2 ^ 16 + v.toNat))) ∧
    (∀ p ∈ [(Reg8.al, Reg.eax), (.cl, .ecx), (.dl, .edx), (.bl, .ebx)],
      (s.reg8 p.1).toNat = (s.reg p.2).toNat % 2 ^ 8 ∧
      ∀ v, s.setReg8 p.1 v = s.setReg p.2 (BitVec.ofNat 32 ((s.reg p.2).toNat / 2 ^ 8 * 2 ^ 8 + v.toNat))) ∧
    (∀ p ∈ [(Reg8.ah, Reg.eax), (.ch, .ecx), (.dh, .edx), (.bh, .ebx)],
      (s.reg8 p.1).toNat = (s.reg p.2).toNat / 2 ^ 8 % 2 ^ 8 ∧
      ∀ v, s.setReg8 p.1 v = s.setReg p.2
        (BitVec.ofNat 32
          ((s.reg p.2).toNat / 2 ^ 16 * 2 ^ 16 + v.toNat * 2 ^ 8 + (s.reg p.2).toNat % 2 ^ 8))) ∧
    (∀ r v, s.regW true r = s.reg r ∧ s.setRegW true r v = s.setReg r v ∧
      (s.regW false r).toNat = (s.reg16 r).toNat ∧
      s.setRegW false r v = s.setReg16 r (BitVec.ofNat 16 (v.toNat % 2 ^ 16)))

/-- R190, R110: with a LOCK prefix byte every instruction but XCHG with a memory operand raises #UD, or #GP(0) on the reading
that LOCK is sensitive to IOPL. Outside V86 mode (R11) that is the model's (log 17, 19). -/
def Obligations.LockFaultsUnlessLockable : Prop :=
  ∀ (i : Instr) (s : State), s.pfx.lock = true → (∀ m r, i ≠ .xchg (.mem m) r) →
    i ∉ [.opSizePfx, .addrSizePfx, .esPfx, .csPfx, .ssPfx, .dsPfx, .fsPfx, .gsPfx, .lockPfx, .repnePfx, .repPfx] →
    exec i s = lockFaults s

/-! IOPL-sensitive instructions. -/

/-- R100: in V86 mode with IOPL below 3 each of the six sensitive instructions raises #GP(0) before any other effect. The
error code 0 is D3's. -/
def Obligations.SensitiveInstructionsTrap : Prop :=
  ∀ (i : Instr) (s : State), (i ∈ [.cli, .sti, .pushf, .popf, .iret] ∨ ∃ n, i = .intN n) →
    s.pfx.lock = false → s.vm = true → s.iopl < 3 → exec i s = faults s 13 (some 0)

/-- R101, R102: in V86 mode CLI clears IF and STI sets it when IOPL = 3, and neither changes another flag, a register or memory;
STI sets IntShadow if IF was 0. With IOPL below 3 both raise #GP(0). -/
def Obligations.CliStiResult : Prop :=
  ∀ s : State, s.pfx.lock = false → s.vm = true →
    exec .cli s =
      (if s.iopl < 3 then faults s 13 (some 0)
        else .next (completed s { s with eflags := { s.eflags with intf := false } })) ∧
    exec .sti s =
      (if s.iopl < 3 then faults s 13 (some 0)
        else .next
          { completed s { s with eflags := { s.eflags with intf := true } } with intShadow := !s.eflags.intf })

/-- R103, R104: PUSHF stores EFLAGS[15:0], PUSHFD EFLAGS with VM and RF as 0, at SS:(SP - 2) or SS:(SP - 4), and only SP changes
besides. POPF loads EFLAGS[15:0] but IOPL; POPFD loads AC too and clears RF. VM never changes. -/
def Obligations.PushfPopfResult : Prop :=
  (∀ (s : State) (pas : List Nat), s.pfx.lock = false → s.vm = true → s.iopl = 3 →
    Accesses s .write .ss ((s.reg16 .esp - BitVec.ofNat 16 s.opBytes).setWidth 32) s.opBytes pas →
    exec .pushf s =
      .next (completed s
        ((s.storeAt pas (if s.op32 then s.eflags.word &&& 0x00FCFFFF else s.eflags.word &&& 0x0000FFFF)).setReg16 .esp
          (s.reg16 .esp - BitVec.ofNat 16 s.opBytes)))) ∧
  (∀ (s : State) (pas : List Nat), s.pfx.lock = false → s.vm = true → s.iopl = 3 →
    Accesses s .read .ss ((s.reg16 .esp).setWidth 32) s.opBytes pas →
    exec .popf s =
      .next (completed s
        { s.setReg16 .esp (s.reg16 .esp + BitVec.ofNat 16 s.opBytes) with
          eflags := { Eflags.ofWord (s.mem.readAll pas) with
                      vm := s.eflags.vm
                      iopl := s.eflags.iopl
                      rf := if s.op32 then false else s.eflags.rf
                      ac := if s.op32 then (s.mem.readAll pas).getLsbD 18 else s.eflags.ac } }))

/-- R105, R203, R215: INT n in V86 mode with IOPL = 3: through a gate with DPL below 3 it raises #GP(8n + 2); else vector n is
delivered with the EIP of the next instruction saved and no error code, and completes in the handler when the gate is open. That
a single-step trap is then pending if TF was 1, and that shadows and halt end, is log 23 and 41; the hidden parts of the
handler's segment registers are log 7 and 14, and that an INT n that ends at offset FFFFH saves 10000H is log 57. -/
def Obligations.IntNResult : Prop :=
  ∀ (s : State) (n : Byte) (g : Gate), s.pfx.lock = false → s.vm = true → s.iopl = 3 → readGate s n = .ok g →
    let ev : Event :=
      { vector := n, err := none, ext := false, ret := s.eip + BitVec.ofNat 32 s.ilen, trap := s.eflags.tf }
    (g.dpl < 3 → exec (.intN n) s = faults s 13 (some (BitVec.ofNat 32 (8 * n.toNat + 2)))) ∧
    (g.dpl = 3 → exec (.intN n) s = deliver s ev ∧
      ∀ code ss0 stack esp0 u esp, GateOpen s ev g code ss0 stack esp0 u esp →
        exec (.intN n) s = .next (inHandler u s.eflags.tf g code ss0 stack esp))

/-- R106, R225: IRET in V86 mode with IOPL = 3 loads IP, CS by the 8086 rule and FLAGS but IOPL; IRETD loads RF and AC too and
raises #GP(0) when its EIP exceeds FFFFH. VM stays, NmiMasked is cleared. When the 6 or 12 bytes cross offset 65535 it raises
#SS(0), whatever the translation of any of them is. -/
def Obligations.IretInV86Result : Prop :=
  (∀ (s : State) (p0 p1 p2 : List Nat), s.pfx.lock = false → s.vm = true → s.iopl = 3 →
    Accesses s .read .ss ((s.reg16 .esp).setWidth 32) s.opBytes p0 →
    Accesses s .read .ss ((s.reg16 .esp).setWidth 32 + BitVec.ofNat 32 s.opBytes) s.opBytes p1 →
    Accesses s .read .ss ((s.reg16 .esp).setWidth 32 + BitVec.ofNat 32 (2 * s.opBytes)) s.opBytes p2 →
    exec .iret s =
      if 0xFFFF < (s.mem.readAll p0).toNat then faults s 13 (some 0)
      else .next (jumped s
        { (s.setReg16 .esp (s.reg16 .esp + BitVec.ofNat 16 (3 * s.opBytes))).setSeg .cs
            (seg8086 ((s.mem.readAll p1).setWidth 16)) with
          eip := s.mem.readAll p0
          eflags := { Eflags.ofWord (s.mem.readAll p2) with
                      vm := s.eflags.vm
                      iopl := s.eflags.iopl
                      rf := if s.op32 then (s.mem.readAll p2).getLsbD 16 else s.eflags.rf
                      ac := if s.op32 then (s.mem.readAll p2).getLsbD 18 else s.eflags.ac }
          nmiMasked := false })) ∧
  (∀ s : State, s.pfx.lock = false → s.vm = true → s.iopl = 3 → 0x10000 < (s.reg16 .esp).toNat + 3 * s.opBytes →
    exec .iret s = faults s 12 (some 0))

/-- R107: the IRET that the monitor executes at CPL 0 with VM = 1 in the image enters V86 mode: EIP, CS, EFLAGS, ESP, SS, ES,
DS, FS and GS come from the frame in that order, the segment registers by the 8086 rule, CPL becomes 3, NmiMasked 0. `w` gives
the doublewords of the frame from the lowest address up. The reading of the frame is the spec's own (C1, D10). -/
def Obligations.IretEntersV86 : Prop :=
  ∀ (s : State) (w : Nat → Dword), s.pfx.lock = false → s.mode = .prot → s.cpl = 0 → s.eflags.nt = false → s.op32 = true →
    s.inSegment .ss (s.reg .esp) 36 = true →
    (∀ k, k < 9 → linRead s ((s.seg .ss).base + (s.reg .esp + BitVec.ofNat 32 (4 * k))) 4 .supervisor = .ok (w k)) →
    (w 2).getLsbD 17 = true → (w 0).toNat ≤ 0xFFFF →
    exec .iret s =
      .next (jumped s
        { s with
          regs := s.regs.set .esp (w 3)
          segs := { cs := seg8086 ((w 1).setWidth 16), ss := seg8086 ((w 4).setWidth 16), es := seg8086 ((w 5).setWidth 16),
                    ds := seg8086 ((w 6).setWidth 16), fs := seg8086 ((w 7).setWidth 16), gs := seg8086 ((w 8).setWidth 16) }
          eip := w 0
          eflags := Eflags.ofWord (w 2)
          cpl := 3
          nmiMasked := false })

/-! Ports. -/

/-- R120: the bit of port p is bit p AND 7 of the byte at TSS base + B + (p >> 3), where B is the word at TSS base + 66H; past
the TSS limit it is 1. Paging is off there. Paging on or off, a TSS whose limit does not reach the map base denies every port
(U24, D25), and so does an 80286 TSS, which has none (DEDUCED, log 42). The format is R120's (D25). -/
def Obligations.PortBitmapLayout : Prop :=
  (∀ (s : State) (p b : Nat), s.pg = false → s.tr.is286 = false → 0x67 ≤ s.tr.limit.toNat →
    b = (s.mem.read (s.tr.base + 0x66).toNat).toNat + 256 * (s.mem.read (s.tr.base + 0x67).toNat).toNat →
    ioBit s p = .ok
      (if s.tr.limit.toNat < b + p / 8 + 1 then true
        else (s.mem.read (s.tr.base + BitVec.ofNat 32 (b + p / 8)).toNat).getLsbD (p % 8))) ∧
  (∀ (s : State) (p : Nat), s.tr.is286 = true ∨ s.tr.limit.toNat < 0x67 → ioBit s p = .ok true)

/-- R121 to R128, R134: in V86 mode, whatever IOPL is, IN puts what the port answers into AL, AX or EAX, and OUT writes AL, AX or
EAX to the port, when the ports are open. An access records its port, width and value, a read draws one free value, and nothing
else changes; the record is the model's own field (log 12). -/
def Obligations.PortTransferResult : Prop :=
  (∀ (s : State) (port : Byte), s.pfx.lock = false → s.vm = true →
    (PortsOpen s port.toNat 1 →
      exec (.inAlImm port) s =
        .next (completed s
          ((inputMade s (port.setWidth 16) 1).setReg8 .al ((portAnswer s (port.setWidth 16) 1).setWidth 8)))) ∧
    (PortsOpen s port.toNat s.opBytes →
      exec (.inAxImm port) s =
        .next (completed s
          ((inputMade s (port.setWidth 16) s.opBytes).setRegW s.op32 .eax (portAnswer s (port.setWidth 16) s.opBytes)))) ∧
    (PortsOpen s (s.reg16 .edx).toNat 1 →
      exec .inAlDx s =
        .next (completed s ((inputMade s (s.reg16 .edx) 1).setReg8 .al ((portAnswer s (s.reg16 .edx) 1).setWidth 8)))) ∧
    (PortsOpen s (s.reg16 .edx).toNat s.opBytes →
      exec .inAxDx s =
        .next (completed s
          ((inputMade s (s.reg16 .edx) s.opBytes).setRegW s.op32 .eax (portAnswer s (s.reg16 .edx) s.opBytes))))) ∧
  (∀ (s : State) (port : Byte), s.pfx.lock = false → s.vm = true →
    (PortsOpen s port.toNat 1 →
      exec (.outImmAl port) s = .next (completed s (outputMade s (port.setWidth 16) 1 ((s.reg8 .al).setWidth 32)))) ∧
    (PortsOpen s port.toNat s.opBytes →
      exec (.outImmAx port) s = .next (completed s (outputMade s (port.setWidth 16) s.opBytes (s.regW s.op32 .eax)))) ∧
    (PortsOpen s (s.reg16 .edx).toNat 1 →
      exec .outDxAl s = .next (completed s (outputMade s (s.reg16 .edx) 1 ((s.reg8 .al).setWidth 32)))) ∧
    (PortsOpen s (s.reg16 .edx).toNat s.opBytes →
      exec .outDxAx s = .next (completed s (outputMade s (s.reg16 .edx) s.opBytes (s.regW s.op32 .eax)))))

/-- R129 to R134: an iteration of INS in V86 mode stores what the port answers at ES:DI, or ES:EDI; an iteration of OUTS writes
to the port what stands at DS:SI, or in the segment of the override. The index moves by the width, up when DF is 0 and down when
it is 1; with a repeat prefix byte CX, or ECX, is counted down, and until it is 0 the instruction goes on with its next iteration
after a boundary with EIP at its first prefix byte. The record of the accesses is log 12, an iteration a step log 28. -/
def Obligations.StringIoResult : Prop :=
  (∀ (i : Instr) (op : StringIo) (s : State) (n : Nat) (pas : List Nat),
    (i = .insb ∧ op = .insb ∧ n = 1) ∨ (i = .insw ∧ op = .insw ∧ n = s.opBytes) →
    s.pfx.lock = false → s.vm = true → (s.pfx.rep = none ∨ s.stringReg .ecx ≠ 0) →
    PortsOpen s (s.reg16 .edx).toNat n → Accesses s .write .es (s.stringReg .edi) n pas →
    exec i s =
      .next (iterated op s
        ((inputMade (s.storeAt pas (portAnswer s (s.reg16 .edx) n)) (s.reg16 .edx) n).setStringReg .edi
          (if s.eflags.df then s.stringReg .edi - BitVec.ofNat 32 n else s.stringReg .edi + BitVec.ofNat 32 n)))) ∧
  (∀ (i : Instr) (op : StringIo) (s : State) (n : Nat) (pas : List Nat),
    (i = .outsb ∧ op = .outsb ∧ n = 1) ∨ (i = .outsw ∧ op = .outsw ∧ n = s.opBytes) →
    s.pfx.lock = false → s.vm = true → (s.pfx.rep = none ∨ s.stringReg .ecx ≠ 0) →
    PortsOpen s (s.reg16 .edx).toNat n → Accesses s .read (s.pfx.seg.getD .ds) (s.stringReg .esi) n pas →
    exec i s =
      .next (iterated op s
        ((outputMade s (s.reg16 .edx) n (s.mem.readAll pas)).setStringReg .esi
          (if s.eflags.df then s.stringReg .esi - BitVec.ofNat 32 n else s.stringReg .esi + BitVec.ofNat 32 n))))

/-- R133, D25: a repeated INS or OUTS with a count of 0 accesses no port and no memory; with its ports closed it completes or
raises #GP(0). Which of the two, a free value says that no law constrains (log 28). -/
def Obligations.RepeatCountZero : Prop :=
  ∀ (i : Instr) (s : State) (n : Nat), ((i = .insb ∨ i = .outsb) ∧ n = 1) ∨ ((i = .insw ∨ i = .outsw) ∧ n = s.opBytes) →
    s.pfx.lock = false → s.vm = true → s.pfx.rep ≠ none → s.stringReg .ecx = 0 →
    (PortsOpen s (s.reg16 .edx).toNat n → exec i s = .next (completed s { s with draws := s.draws + 1 })) ∧
    (PortsClosed s (s.reg16 .edx).toNat n →
      exec i s = .next (completed s { s with draws := s.draws + 1 }) ∨ exec i s = faults s 13 (some 0))

/-- R120: in V86 mode, whatever IOPL is, an I/O instruction one of whose ports is closed raises #GP(0) and changes nothing. A
repeated INS or OUTS with count 0 is RepeatCountZero's; before IN and OUT a repeat prefix byte is redundant (R71), whatever the
count is. -/
def Obligations.ClosedPortFaults : Prop :=
  ∀ (i : Instr) (s : State) (p n : Nat), s.pfx.lock = false → s.vm = true →
    (i ∈ [.insb, .insw, .outsb, .outsw] → s.pfx.rep = none ∨ s.stringReg .ecx ≠ 0) →
    ((∃ b : Byte, p = b.toNat ∧
        (((i = .inAlImm b ∨ i = .outImmAl b) ∧ n = 1) ∨ ((i = .inAxImm b ∨ i = .outImmAx b) ∧ n = s.opBytes))) ∨
      (p = (s.reg16 .edx).toNat ∧
        ((i ∈ [.inAlDx, .outDxAl, .insb, .outsb] ∧ n = 1) ∨ (i ∈ [.inAxDx, .outDxAx, .insw, .outsw] ∧ n = s.opBytes)))) →
    PortsClosed s p n → exec i s = faults s 13 (some 0)

/-! Privileged instructions. -/

/-- R140: in V86 mode every privileged instruction raises #GP(0), whatever its operands are; no operand is read. -/
def Obligations.PrivilegedTrapInV86 : Prop :=
  ∀ (i : Instr) (s : State),
    ((∃ m, i = .lidt m ∨ i = .lgdt m ∨ i = .invlpg m) ∨ (∃ x, i = .lmsw x) ∨
      (∃ n r, i = .movFromCr n r ∨ i = .movToCr n r ∨ i = .movFromDr n r ∨ i = .movToDr n r ∨ i = .movFromTr n r ∨
        i = .movToTr n r) ∨
      i ∈ [.clts, .hlt, .invd, .wbinvd]) →
    s.pfx.lock = false → s.vm = true → exec i s = faults s 13 (some 0)

/-- Where they may execute, LIDT and LGDT load a 16-bit limit and a 32-bit base from memory, and LMSW loads the low four bits of
CR0 and leaves the others (R141, R142, R143, R155; log 34). That the limit lies at offset 0 of the operand and the base at
offset 2, for LGDT as for LIDT, is the model's (log 54). A 6-byte operand that is not inside its segment raises #SS(0) or
#GP(0) before any byte of it is read (R225). The instructions execute in real-address and protected mode only, where the offset
check, its limit and its exception are the model's (log 17, 19). -/
def Obligations.SystemLoadsComplete : Prop :=
  ∀ s : State, s.pfx.lock = false → MayUsePrivileged s →
    (∀ m p0 p1, s.inSegment (operandSeg s m) (effAddr s m) 6 = true →
      Accesses s .read (operandSeg s m) (effAddr s m) 2 p0 →
      Accesses s .read (operandSeg s m) (effAddr s m + 2) 4 p1 →
      exec (.lidt m) s =
        .next (completed s { s with idtr := { base := s.mem.readAll p1, limit := (s.mem.readAll p0).setWidth 16 } }) ∧
      exec (.lgdt m) s =
        .next (completed s { s with gdtr := { base := s.mem.readAll p1, limit := (s.mem.readAll p0).setWidth 16 } })) ∧
    (∀ m, s.inSegment (operandSeg s m) (effAddr s m) 6 = false →
      exec (.lidt m) s = faults s (if operandSeg s m = .ss then 12 else 13) (some 0) ∧
      exec (.lgdt m) s = faults s (if operandSeg s m = .ss then 12 else 13) (some 0)) ∧
    (∀ x v, ReadsWord s x v →
      exec (.lmsw x) s =
        .next (completed s
          { s with ctrl := { s.ctrl with cr0 := (s.ctrl.cr0 &&& 0xFFFFFFF0) ||| (v.setWidth 32 &&& 0xF) } }))

/-- The moves to and from control, debug and test registers complete where they may execute (R144, R145, R151 to R155); a number
that R77 does not list raises #UD, and paging is not enabled without protection, #GP(0) (log 35). That a move to a debug or test
register changes nothing but that register, so that no breakpoint is armed and no test operation follows, is the model's choice
(log 51). -/
def Obligations.SpecialRegisterMovesComplete : Prop :=
  ∀ (n : BitVec 3) (r : Reg) (s : State), s.pfx.lock = false → MayUsePrivileged s →
    exec (.movFromCr n r) s =
      (match s.ctrl.get n with
        | some v => .next (completed s (s.setReg r v))
        | none => faults s 6 none) ∧
    exec (.movToCr n r) s =
      (match s.ctrl.set n (s.reg r) with
        | some c =>
          if n = 0 ∧ (s.reg r).getLsbD 31 = true ∧ (s.reg r).getLsbD 0 = false then faults s 13 (some 0)
          else .next (completed s { s with ctrl := c })
        | none => faults s 6 none) ∧
    exec (.movFromDr n r) s =
      (match s.dbg.get n with
        | some v => .next (completed s (s.setReg r v))
        | none => faults s 6 none) ∧
    exec (.movToDr n r) s =
      (match s.dbg.set n (s.reg r) with
        | some d => .next (completed s { s with dbg := d })
        | none => faults s 6 none) ∧
    exec (.movFromTr n r) s =
      (match s.tst.get n with
        | some v => .next (completed s (s.setReg r v))
        | none => faults s 6 none) ∧
    exec (.movToTr n r) s =
      (match s.tst.set n (s.reg r) with
        | some t => .next (completed s { s with tst := t })
        | none => faults s 6 none)

/-- R77: which register each number names: the control registers 0, 2, 3, the debug registers 0 to 3, 6, 7 and the test registers
3 to 7; a write of one reads back and the others of its group stay. That a number that R77 does not list names no register is
log 35. That the debug and test registers are such plain storage is the model's choice (log 51). -/
def Obligations.SpecialRegisterFiles : Prop :=
  (∀ (c : CtrlRegs) (n : BitVec 3) (v : Dword),
    (c.get 0 = some c.cr0 ∧ c.get 2 = some c.cr2 ∧ c.get 3 = some c.cr3) ∧
    (c.set 0 v = some { c with cr0 := v } ∧ c.set 2 v = some { c with cr2 := v } ∧ c.set 3 v = some { c with cr3 := v }) ∧
    (c.get n).isSome = decide (n = 0 ∨ n = 2 ∨ n = 3) ∧ (c.set n v).isSome = decide (n = 0 ∨ n = 2 ∨ n = 3) ∧
    ∀ c', c.set n v = some c' → c'.get n = some v ∧ ∀ k, k ≠ n → c'.get k = c.get k) ∧
  (∀ (d : DebugRegs) (n : BitVec 3) (v : Dword),
    (d.get 0 = some d.dr0 ∧ d.get 1 = some d.dr1 ∧ d.get 2 = some d.dr2 ∧ d.get 3 = some d.dr3 ∧ d.get 6 = some d.dr6 ∧
      d.get 7 = some d.dr7) ∧
    (d.set 0 v = some { d with dr0 := v } ∧ d.set 1 v = some { d with dr1 := v } ∧ d.set 2 v = some { d with dr2 := v } ∧
      d.set 3 v = some { d with dr3 := v } ∧ d.set 6 v = some { d with dr6 := v } ∧ d.set 7 v = some { d with dr7 := v }) ∧
    (d.get n).isSome = decide (n ≠ 4 ∧ n ≠ 5) ∧ (d.set n v).isSome = decide (n ≠ 4 ∧ n ≠ 5) ∧
    ∀ d', d.set n v = some d' → d'.get n = some v ∧ ∀ k, k ≠ n → d'.get k = d.get k) ∧
  (∀ (t : TestRegs) (n : BitVec 3) (v : Dword),
    (t.get 3 = some t.tr3 ∧ t.get 4 = some t.tr4 ∧ t.get 5 = some t.tr5 ∧ t.get 6 = some t.tr6 ∧ t.get 7 = some t.tr7) ∧
    (t.set 3 v = some { t with tr3 := v } ∧ t.set 4 v = some { t with tr4 := v } ∧ t.set 5 v = some { t with tr5 := v } ∧
      t.set 6 v = some { t with tr6 := v } ∧ t.set 7 v = some { t with tr7 := v }) ∧
    (t.get n).isSome = decide (3 ≤ n) ∧ (t.set n v).isSome = decide (3 ≤ n) ∧
    ∀ t', t.set n v = some t' → t'.get n = some v ∧ ∀ k, k ≠ n → t'.get k = t.get k)

/-- CLTS, HLT, INVD, WBINVD and INVLPG complete where they may execute: CLTS clears CR0 bit 3, HLT stops execution, the other
three change no state (R146 to R150, R155; log 36, 37). That the task-switched flag is bit 3 is log 50. -/
def Obligations.SystemControlCompletes : Prop :=
  ∀ (m : MemRef) (s : State), s.pfx.lock = false → MayUsePrivileged s →
    exec .clts s = .next (completed s { s with ctrl := { s.ctrl with cr0 := s.ctrl.cr0 &&& 0xFFFFFFF7 } }) ∧
    exec .hlt s = .next (completed s { s with halted := true }) ∧
    exec .invd s = .next (completed s s) ∧ exec .wbinvd s = .next (completed s s) ∧
    exec (.invlpg m) s = .next (completed s s)

/-- R140, R221: no instruction executed in V86 mode changes GDTR, IDTR, CR0, a debug or a test register, and none halts the
processor or changes what is pending from outside, what the environment offers, or the page and descriptor tables. CR2, CR3, LDTR
and TR are not among them: a page fault that the instruction raises changes CR2, and an event delivered through a task gate CR3,
LDTR and TR. That a task switch, by such an event, keeps CR0 is the model's choice (log 22), and so is that translation and
descriptors are tables that no instruction changes (log 13, 14). -/
def Obligations.V86KeepsTablesCr0DebugAndTest : Prop :=
  ∀ (i : Instr) (s t : State), s.vm = true → exec i s = .next t →
    t.gdtr = s.gdtr ∧ t.idtr = s.idtr ∧ t.ctrl.cr0 = s.ctrl.cr0 ∧ t.dbg = s.dbg ∧ t.tst = s.tst ∧
      (t.halted = true → s.halted = true) ∧ t.extEvents = s.extEvents ∧ t.irqs = s.irqs ∧ t.nmiPending = s.nmiPending ∧
      t.fpPending = s.fpPending ∧ t.pageMap = s.pageMap ∧ t.descriptors = s.descriptors

/-- R211, R21, R22: an instruction executed in V86 mode at CPL 3 stays in V86 mode at CPL 3 with the same IOPL, or an event was
delivered through the IDT, from a state that differs from its own in CR2 at most. -/
def Obligations.V86LeftOnlyByDelivery : Prop :=
  ∀ (i : Instr) (s t : State), s.vm = true → s.cpl = 3 → exec i s = .next t →
    (t.vm = true ∧ t.cpl = 3 ∧ t.iopl = s.iopl) ∨
      ∃ cr2 ev, deliver { s with ctrl := { s.ctrl with cr2 := cr2 } } ev = .next t

/-! Stack and data movement. -/

/-- R160, R46: PUSH in V86 mode stores the register as it was before the push, PUSH SP included, and only then moves SP; when the
item would cross offset 0 (a word with SP = 1, a doubleword with SP = 1, 2 or 3) it raises #SS(0) and writes nothing. -/
def Obligations.PushResult : Prop :=
  ∀ (r : Reg) (s : State), s.pfx.lock = false → s.vm = true →
    (∀ pas, Accesses s .write .ss ((s.reg16 .esp - BitVec.ofNat 16 s.opBytes).setWidth 32) s.opBytes pas →
      exec (.push r) s =
        .next (completed s
          ((s.storeAt pas (s.regW s.op32 r)).setReg16 .esp (s.reg16 .esp - BitVec.ofNat 16 s.opBytes)))) ∧
    (0 < (s.reg16 .esp).toNat → (s.reg16 .esp).toNat < s.opBytes → exec (.push r) s = faults s 12 (some 0))

/-- R161, R162: MOV to a register loads the operand; MOV to a register or to memory stores the source register; neither changes
anything else. The rules are for V86 mode (R11): that they act so in
real-address and protected mode too is the model's (log 17, 19). -/
def Obligations.MovResult : Prop :=
  (∀ (r : Reg) (x : Rm Reg) (s : State) (v : Dword), s.pfx.lock = false → ReadsWide s x v →
    exec (.movRRm r x) s = .next (completed s (s.setRegW s.op32 r v))) ∧
  (∀ (x : Rm Reg) (r : Reg) (s : State) (pas : List Nat), s.pfx.lock = false → Writes s x s.opBytes pas →
    exec (.movRmR x r) s = .next (completed s (putWide s x pas (s.regW s.op32 r))))

/-- R163, R190: XCHG swaps its operands; the address is formed from the old register values. LOCK before the form with a memory
operand is legal, and changes nothing in what it does; but in V86 mode with IOPL below 3, on the reading that LOCK is sensitive to IOPL, it
raises #GP(0) before its operand is read (R110, D11). The rules are for V86 mode (R11): that XCHG acts so in real-address and
protected mode too is the model's (log 17, 19). -/
def Obligations.XchgResult : Prop :=
  (∀ (x : Rm Reg) (r : Reg) (s : State) (v : Dword) (pas : List Nat),
    (s.pfx.lock = true → x.isMem = true ∧ (s.vm = false ∨ s.iopl = 3)) → ReadsWide s x v → Writes s x s.opBytes pas →
    exec (.xchg x r) s = .next (completed s ((putWide s x pas (s.regW s.op32 r)).setRegW s.op32 r v))) ∧
  (∀ (m : MemRef) (r : Reg) (s : State), s.pfx.lock = true → s.vm = true → s.iopl ≠ 3 →
    if Config.lockIoplSensitive = true then exec (.xchg (.mem m) r) s = faults s 13 (some 0)
    else
      ∀ v pas, ReadsWide s (.mem m) v → Writes s (.mem m : Rm Reg) s.opBytes pas →
        exec (.xchg (.mem m) r) s =
          .next (completed s ((putWide s (.mem m : Rm Reg) pas (s.regW s.op32 r)).setRegW s.op32 r v)))

/-- R164, R49: MOV to a segment register in V86 mode accepts every selector and forms the base by the 8086 rule; a load of SS
sets IntShadow; CS and the numbers 6 and 7 raise #UD. The bit ssShadow beside IntShadow is the model's (log 24), and so are the
hidden bits usable and big (log 7). -/
def Obligations.LoadSegmentRegisterResult : Prop :=
  ∀ (n : BitVec 3) (x : Rm Reg) (s : State), s.pfx.lock = false → s.vm = true →
    (n = 1 ∨ 6 ≤ n → exec (.movSregRm n x) s = faults s 6 none) ∧
    (∀ r v, SReg.ofNum n = some r → r ≠ .cs → ReadsWord s x v →
      exec (.movSregRm n x) s =
        .next { completed s
                  (s.setSeg r { sel := v, base := v.setWidth 32 <<< 4, limit := 0xFFFF, usable := true, big := false }) with
                intShadow := decide (r = .ss), ssShadow := decide (r = .ss) })

/-- R165, U6: MOV from a segment register stores the selector; with 32-bit operand size the upper half of a register destination
is a free value; the numbers 6 and 7 raise #UD. Which draw the upper half takes, and its counter, are the model's (log 10, 11), and
so is that the instruction acts so in real-address and protected mode too (log 17, 19), the rule being for V86 mode (R11). -/
def Obligations.StoreSegmentRegisterResult : Prop :=
  ∀ (n : BitVec 3) (x : Rm Reg) (s : State), s.pfx.lock = false →
    (6 ≤ n → exec (.movRmSreg x n) s = faults s 6 none) ∧
    (∀ q, SReg.ofNum n = some q →
      (∀ m pas, x = .mem m → Accesses s .write (operandSeg s m) (effAddr s m) 2 pas →
        exec (.movRmSreg x n) s = .next (completed s (s.storeAt pas ((s.sel q).setWidth 32)))) ∧
      (∀ d, x = .reg d → s.op32 = false →
        exec (.movRmSreg x n) s = .next (completed s (s.setReg16 d (s.sel q)))) ∧
      (∀ d, x = .reg d → s.op32 = true →
        exec (.movRmSreg x n) s =
          .next (completed s { s.setReg d (Config.drawWord s.draws ++ s.sel q) with draws := s.draws + 1 })))

/-! Divide. -/

/-- R171, R172, R170: DIV of AX by a byte, of DX:AX by a word, of EDX:EAX by a doubleword: #DE for a divisor 0 or a quotient that
does not fit; else the quotient in AL, AX or EAX, the remainder in AH, DX or EDX, and each of the six arithmetic flags
a fresh free value (U1; the order of the draws is log 9). The rules are for V86 mode (R11): that DIV acts so in real-address and
protected mode too is the model's (log 17, 19). -/
def Obligations.DivResult : Prop :=
  (∀ (x : Rm Reg8) (s : State) (d : Byte), s.pfx.lock = false → ReadsByte s x d →
      exec (.div8 x) s =
        if d = 0 ∨ 0xFF < (s.reg16 .eax).toNat / d.toNat then faults s 0 none
        else .next (completed s
          (divideLeaves s ((s.setReg8 .al (BitVec.ofNat 8 ((s.reg16 .eax).toNat / d.toNat))).setReg8 .ah
            (BitVec.ofNat 8 ((s.reg16 .eax).toNat % d.toNat)))))) ∧
  (∀ (x : Rm Reg) (s : State) (d : Dword), s.pfx.lock = false → ReadsWide s x d →
      (s.op32 = false →
        exec (.divW x) s =
          let D := (s.reg16 .edx).toNat * 2 ^ 16 + (s.reg16 .eax).toNat
          if d = 0 ∨ 0xFFFF < D / d.toNat then faults s 0 none
          else .next (completed s
            (divideLeaves s
              ((s.setReg16 .eax (BitVec.ofNat 16 (D / d.toNat))).setReg16 .edx (BitVec.ofNat 16 (D % d.toNat)))))) ∧
      (s.op32 = true →
        exec (.divW x) s =
          let D := (s.reg .edx).toNat * 2 ^ 32 + (s.reg .eax).toNat
          if d = 0 ∨ 0xFFFFFFFF < D / d.toNat then faults s 0 none
          else .next (completed s
            (divideLeaves s
              ((s.setReg .eax (BitVec.ofNat 32 (D / d.toNat))).setReg .edx (BitVec.ofNat 32 (D % d.toNat)))))))

/-- R173, R174: IDIV: the quotient is rounded toward zero and the remainder has the dividend's sign; #DE for a divisor 0 or a
quotient outside the signed range, whose lowest number is a result and no fault; the six arithmetic flags as after DIV (U1,
log 9). The rules are for V86 mode (R11): that IDIV acts so in real-address and protected mode too is the model's (log 17, 19). -/
def Obligations.IdivResult : Prop :=
  (∀ (x : Rm Reg8) (s : State) (d : Byte), s.pfx.lock = false → ReadsByte s x d →
      exec (.idiv8 x) s =
        let q := (s.reg16 .eax).toInt.tdiv d.toInt
        if d = 0 ∨ q < -128 ∨ 127 < q then faults s 0 none
        else .next (completed s
          (divideLeaves s
            ((s.setReg8 .al (BitVec.ofInt 8 q)).setReg8 .ah (BitVec.ofInt 8 ((s.reg16 .eax).toInt.tmod d.toInt)))))) ∧
  (∀ (x : Rm Reg) (s : State) (d : Dword), s.pfx.lock = false → ReadsWide s x d →
      (s.op32 = false →
        exec (.idivW x) s =
          let D := (s.reg16 .edx ++ s.reg16 .eax).toInt
          let q := D.tdiv (d.setWidth 16).toInt
          if d = 0 ∨ q < -32768 ∨ 32767 < q then faults s 0 none
          else .next (completed s
            (divideLeaves s ((s.setReg16 .eax (BitVec.ofInt 16 q)).setReg16 .edx
              (BitVec.ofInt 16 (D.tmod (d.setWidth 16).toInt)))))) ∧
      (s.op32 = true →
        exec (.idivW x) s =
          let D := (s.reg .edx ++ s.reg .eax).toInt
          let q := D.tdiv d.toInt
          if d = 0 ∨ q < -2147483648 ∨ 2147483647 < q then faults s 0 none
          else .next (completed s
            (divideLeaves s
              ((s.setReg .eax (BitVec.ofInt 32 q)).setReg .edx (BitVec.ofInt 32 (D.tmod d.toInt)))))))

/-! Shift and rotate. -/

/-- R183, R175: the 42 shift and rotate instructions, of an 8-bit operand and of one of the operand size: with a masked count of
0 nothing changes, and the operand need not be writable; else the result is written and the flags are those of the operation (R176 to
R182). That every shift counts three free values, whichever of its flags are undefined, is the model's choice (log 9). The rules are
for V86 mode (R11): that the instructions act so in real-address and protected mode too is the model's (log 17, 19). -/
def Obligations.ShiftResult : Prop :=
  (∀ (op : ShiftOp) (f : CountForm) (x : Rm Reg8) (s : State) (d : Byte), s.pfx.lock = false → ReadsByte s x d →
      ((f.count s).toNat % 32 = 0 → exec (byteShift op f x) s = .next (completed s s)) ∧
      (∀ pas, (f.count s).toNat % 32 ≠ 0 → Writes s x 1 pas →
        exec (byteShift op f x) s =
          .next (completed s
            { putByte s x pas (shiftResult op s.eflags.cf d ((f.count s).toNat % 32)) with
              eflags := shiftFlags op s.eflags d ((f.count s).toNat % 32) s.draws
              draws := s.draws + 3 }))) ∧
  (∀ (op : ShiftOp) (f : CountForm) (x : Rm Reg) (s : State) (d : Dword), s.pfx.lock = false → ReadsWide s x d →
      ((f.count s).toNat % 32 = 0 → exec (wideShift op f x) s = .next (completed s s)) ∧
      (∀ pas, (f.count s).toNat % 32 ≠ 0 → Writes s x s.opBytes pas →
        exec (wideShift op f x) s =
          .next (completed s
            (if s.op32 then
              { putWide s x pas (shiftResult op s.eflags.cf d ((f.count s).toNat % 32)) with
                eflags := shiftFlags op s.eflags d ((f.count s).toNat % 32) s.draws
                draws := s.draws + 3 }
            else
              { putWide s x pas ((shiftResult op s.eflags.cf (d.setWidth 16) ((f.count s).toNat % 32)).setWidth 32) with
                eflags := shiftFlags op s.eflags (d.setWidth 16) ((f.count s).toNat % 32) s.draws
                draws := s.draws + 3 }))))

/-- R175: only the low five bits of a count matter, whatever the instruction, the operand and the mode; outside V86 mode (R11) that
is the model's (log 17, 19). -/
def Obligations.ShiftCountModulo32 : Prop :=
  ∀ (op : ShiftOp) (c c' : Byte) (s : State), c.toNat % 32 = c'.toNat % 32 →
    (∀ x, exec (byteShift op (.imm c) x) s = exec (byteShift op (.imm c') x) s) ∧
    (∀ x, exec (wideShift op (.imm c) x) s = exec (wideShift op (.imm c') x) s)

/-- R176, R177: the results of ROL and ROR for each operand width: the operand rotated by the count modulo the width; CF is the
bit rotated last; OF is defined for a count of 1 and free otherwise; no other flag changes. Which draw a free flag takes, here and
in the two statements after it, is the model's choice (log 9). -/
def Obligations.RotateRules : Prop :=
  ∀ (n : Nat) (d : BitVec n) (c k : Nat) (f : Eflags), n = 8 ∨ n = 16 ∨ n = 32 → 0 < c → c < 32 →
    let l := shiftResult .rol f.cf d c
    let r := shiftResult .ror f.cf d c
    l.toNat = (d.toNat * 2 ^ (c % n) + d.toNat / 2 ^ (n - c % n)) % 2 ^ n ∧
    r.toNat = (d.toNat / 2 ^ (c % n) + d.toNat * 2 ^ (n - c % n)) % 2 ^ n ∧
    shiftFlags .rol f d c k =
      { f with cf := l.getLsbD 0, of := if c = 1 then l.getLsbD (n - 1) ^^ l.getLsbD 0 else Config.drawBit k } ∧
    shiftFlags .ror f d c k =
      { f with
        cf := r.getLsbD (n - 1)
        of := if c = 1 then r.getLsbD (n - 1) ^^ r.getLsbD (n - 2) else Config.drawBit k }

/-- R178, R179: RCL and RCR rotate the n + 1 bits CF and operand; the result is the low n bits and CF the top one; OF is
defined for a count of 1 and free otherwise; no other flag changes. Which draw OF then takes is log 9. -/
def Obligations.RotateThroughCarryRules : Prop :=
  ∀ (n : Nat) (d : BitVec n) (c k : Nat) (f : Eflags), n = 8 ∨ n = 16 ∨ n = 32 → 0 < c → c < 32 →
    let T := f.cf.toNat * 2 ^ n + d.toNat
    let j := c % (n + 1)
    let L := (T * 2 ^ j + T / 2 ^ (n + 1 - j)) % 2 ^ (n + 1)
    let R := (T / 2 ^ j + T * 2 ^ (n + 1 - j)) % 2 ^ (n + 1)
    (shiftResult .rcl f.cf d c).toNat = L % 2 ^ n ∧ (shiftResult .rcr f.cf d c).toNat = R % 2 ^ n ∧
    shiftFlags .rcl f d c k =
      { f with
        cf := decide (L / 2 ^ n = 1)
        of := if c = 1 then L.testBit (n - 1) ^^ decide (L / 2 ^ n = 1) else Config.drawBit k } ∧
    shiftFlags .rcr f d c k =
      { f with
        cf := decide (R / 2 ^ n = 1)
        of := if c = 1 then d.getLsbD (n - 1) ^^ f.cf else Config.drawBit k }

/-- R180, R181, R182: the results of SHL, SHR and SAR on unbounded integers, their CF and OF with what is free of them, and SF,
ZF and PF from the result, PF 1 for an even number of 1 bits in its low byte; AF is free; no other flag changes. Which draws the
free flags take is log 9. -/
def Obligations.ShiftRules : Prop :=
  ∀ (n : Nat) (d : BitVec n) (c k : Nat) (f : Eflags), n = 8 ∨ n = 16 ∨ n = 32 → 0 < c → c < 32 →
    let l := shiftResult .shl f.cf d c
    let r := shiftResult .shr f.cf d c
    let a := shiftResult .sar f.cf d c
    let cl := if c < n then d.getLsbD (n - c) else Config.drawBit (k + 1)
    l.toNat = d.toNat * 2 ^ c % 2 ^ n ∧ r.toNat = d.toNat / 2 ^ c ∧ a.toInt = d.toInt / 2 ^ c ∧
    shiftFlags .shl f d c k =
      { f with
        cf := cl
        of := if c = 1 then l.getLsbD (n - 1) ^^ cl else Config.drawBit k
        sf := l.getLsbD (n - 1), zf := decide (l = 0), pf := evenOnes (l.setWidth 8), af := Config.drawBit (k + 2) } ∧
    shiftFlags .shr f d c k =
      { f with
        cf := if c < n then d.getLsbD (c - 1) else Config.drawBit (k + 1)
        of := if c = 1 then d.getLsbD (n - 1) else Config.drawBit k
        sf := r.getLsbD (n - 1), zf := decide (r = 0), pf := evenOnes (r.setWidth 8), af := Config.drawBit (k + 2) } ∧
    shiftFlags .sar f d c k =
      { f with
        cf := if c ≤ n then d.getLsbD (c - 1) else d.getLsbD (n - 1)
        of := if c = 1 then false else Config.drawBit k
        sf := a.getLsbD (n - 1), zf := decide (a = 0), pf := evenOnes (a.setWidth 8), af := Config.drawBit (k + 2) }

/-! Flags and memory. -/

/-- R19, U39: EFLAGS as a word has the named bits at their places, bit 1 as 1 and bits 3, 5, 15 and 31:19 as 0, and loading a word
ignores those bits. -/
def Obligations.EflagsLayout : Prop :=
  (∀ f : Eflags, Eflags.ofWord f.word = f) ∧
    (∀ w : Dword, (Eflags.ofWord w).word = (w &&& 0x00077FD7) ||| 2) ∧
    (∀ f : Eflags, f.word.getLsbD 0 = f.cf ∧ f.word.getLsbD 2 = f.pf ∧ f.word.getLsbD 4 = f.af ∧ f.word.getLsbD 6 = f.zf ∧
      f.word.getLsbD 7 = f.sf ∧ f.word.getLsbD 8 = f.tf ∧ f.word.getLsbD 9 = f.intf ∧ f.word.getLsbD 10 = f.df ∧
      f.word.getLsbD 11 = f.of ∧ f.word.extractLsb' 12 2 = f.iopl ∧ f.word.getLsbD 14 = f.nt ∧ f.word.getLsbD 15 = false ∧
      f.word.getLsbD 16 = f.rf ∧ f.word.getLsbD 17 = f.vm ∧ f.word.getLsbD 18 = f.ac)

/-- R41, R42, R43: in V86 mode the linear address is the selector times 16 plus the offset, without truncation: 0 to 10FFEFH. -/
def Obligations.LinearAddressRange : Prop :=
  ∀ (s : State) (r : SReg) (off : Word), s.vm = true → segmentsOk s = true →
    (s.lin r (off.setWidth 32)).toNat = (s.sel r).toNat * 16 + off.toNat ∧ (s.lin r (off.setWidth 32)).toNat ≤ 0x10FFEF

/-- R45, R46, R48, R51, R225: in V86 mode an access that runs past offset 65535 raises #SS(0) through SS and #GP(0) through any
other segment register; none of it is performed. So does an instruction that reaches it, from the state in which it began; and
one of whose bytes the first that does not translate fails with a page fault raises that page fault. -/
def Obligations.OffsetPastSegmentEndFaults : Prop :=
  (∀ (s : State) (r : SReg) (off v : Dword) (n : Nat), s.vm = true → 0x10000 < off.toNat + n →
    memRead s r off n = .error (.exc (if r = .ss then excSS0 else excGP0)) ∧
    memWrite s r off n v = .error (.exc (if r = .ss then excSS0 else excGP0))) ∧
  (∀ (i : Instr) (s : State) (k : Access) (r : SReg) (off : Dword) (n : Nat), s.vm = true →
    (s.pfx.lock = true → (∃ m q, i = .xchg (.mem m) q) ∧ (s.iopl = 3 ∨ Config.lockIoplSensitive = false)) →
    Reaches s i k r off n →
    (0x10000 < off.toNat + n → exec i s = faults s (if r = .ss then 12 else 13) (some 0)) ∧
    (∀ j e, off.toNat + n ≤ 0x10000 → s.alignmentTrap (s.lin r off) n = false → j < n →
      (∀ q, q < j → ∃ pa, linToPhys s (s.lin r off + BitVec.ofNat 32 q) k .user = .ok pa) →
      linToPhys s (s.lin r off + BitVec.ofNat 32 j) k .user = .error (.exc e) → exec i s = raise s e))

/-- R63, R55: with paging off an access inside the segment reads and writes the consecutive bytes from the linear address up, the
lowest-order byte first; a write changes those bytes and no other, whatever the addresses stored to are. Which offsets lie inside a
segment outside V86 mode is the model's (log 17, 19). -/
def Obligations.StoreThenLoad : Prop :=
  (∀ (s : State) (pas : List Nat) (v : Dword) (a : Nat), a ∉ pas → (s.storeAt pas v).mem.read a = s.mem.read a) ∧
  (∀ (s : State) (r : SReg) (off v : Dword) (n : Nat), s.pg = false → s.inSegment r off n = true →
      s.alignmentTrap (s.lin r off) n = false → n ≤ 4 → memoryOk s = true →
      ∃ t, memWrite s r off n v = .ok t ∧
        (∀ i, i < n → t.mem.read (s.lin r off + BitVec.ofNat 32 i).toNat = (v >>> (8 * i)).setWidth 8) ∧
        (∀ a, (∀ i, i < n → a ≠ (s.lin r off + BitVec.ofNat 32 i).toNat) → t.mem.read a = s.mem.read a) ∧
        memRead t r off n = .ok ((v.setWidth (8 * n)).setWidth 32))

/-- R44, R51, R232: with paging on, an access to a page that no entry lists under CR3 fails with the page fault of that address,
page not present; one that the first entry of the page does not allow fails with the protection violation; one that it allows goes
to the entry's physical page. Delivering a page fault leaves the address in CR2 and pushes the error code's three bits. That
paging is a table of pages, the first matching entry counting, is the model's choice (log 13). -/
def Obligations.PageFaultReported : Prop :=
  ∀ (s : State) (la : Dword) (k : Access) (p : Priv), s.pg = true →
    ((∀ e ∈ s.pageMap, ¬ (e.cr3 = s.ctrl.cr3 ∧ e.page = la.extractLsb' 12 20)) →
      linToPhys s la k p = .error (.exc (excPF la false k p))) ∧
    (∀ before e rest, s.pageMap = before ++ e :: rest →
      (∀ x ∈ before, ¬ (x.cr3 = s.ctrl.cr3 ∧ x.page = la.extractLsb' 12 20)) →
      e.cr3 = s.ctrl.cr3 → e.page = la.extractLsb' 12 20 →
      linToPhys s la k p =
        if (k, p) ∈ e.allowed then .ok (BitVec.ofNat 32 (e.frame.toNat * 4096 + la.toNat % 4096))
        else .error (.exc (excPF la true k p))) ∧
    (∀ present, raise s (excPF la present k p) =
      deliver { s with ctrl := { s.ctrl with cr2 := la } }
        { vector := 14
          err := some (BitVec.ofNat 32 (present.toNat + 2 * (decide (k = .write)).toNat + 4 * (decide (p = .user)).toNat))
          ext := false
          ret := s.eip
          trap := false })

/-! Delivery. -/

/-- R203, R205, R222: delivery in V86 mode through a trap or interrupt gate: the frame is pushed, then SS:ESP, CS:EIP, CPL and
EFLAGS are the handler's, DS, ES, FS and GS are 0, and the general registers but ESP are unchanged. What the hidden parts of
the handler's segment registers hold is the model's (log 7, 14); so is what becomes of the shadows and a halt, which end (log 41),
and of a pending single-step trap, which stays pending (log 23). -/
def Obligations.DeliveryEntersHandler : Prop :=
  ∀ (s : State) (ev : Event) (g : Gate) (code : SegDesc) (ss0 : Word) (stack : SegDesc) (esp0 : Dword) (u : State)
    (esp : Dword), s.vm = true → GateOpen s ev g code ss0 stack esp0 u esp →
    deliver s ev = .next (inHandler u ev.trap g code ss0 stack esp)

/-- R204: the frame. With paging off and room below ESP0, the doublewords stand at Ss0Base + ESP0 - 4, - 8, ... in the order
GS, FS, DS, ES, SS, ESP, EFLAGS, CS, EIP and the error code if there is one; ESP is below the last; every other byte of
memory, and every field of the state but memory, is unchanged. ESP0 is `top` modulo 2^32: `top` lies from the frame's size up to
the segment's limit + 1, where the stack is empty. That the frame must lie inside the limit of SS0's descriptor is the model's
(log 14). The zeros above the selectors and the error code are the spec's own choice (R203's pseudocode, D27; log 48). -/
def Obligations.FrameLayout : Prop :=
  ∀ (s : State) (ev : Event) (stack : SegDesc) (top size : Nat), s.pg = false → memoryOk s = true →
    size = (if ev.err = none then 36 else 40) → size ≤ top → top ≤ stack.limit.toNat + 1 → stack.base.toNat + top ≤ 2 ^ 32 →
    ∃ u, pushFrame s stack (BitVec.ofNat 32 top) (frameWords s ev) = .ok (u, BitVec.ofNat 32 (top - size)) ∧
      (∀ k v, (frameWords s ev)[k]? = some v →
        u.mem.readAll [stack.base.toNat + top - 4 * k - 4, stack.base.toNat + top - 4 * k - 3,
          stack.base.toNat + top - 4 * k - 2, stack.base.toNat + top - 4 * k - 1] = v) ∧
      (∀ a, (a < stack.base.toNat + top - size ∨ stack.base.toNat + top ≤ a) → u.mem.read a = s.mem.read a) ∧
      u = { s with mem := u.mem, written := u.written } ∧
      frameWords s ev =
        [(s.sel .gs).setWidth 32, (s.sel .fs).setWidth 32, (s.sel .ds).setWidth 32, (s.sel .es).setWidth 32,
          (s.sel .ss).setWidth 32, s.reg .esp, s.eflags.word, (s.sel .cs).setWidth 32, ev.ret] ++ ev.err.toList

/-- R206, R200: when the gate's target is no nonconforming code segment of privilege level 0, nothing is pushed and #GP is
delivered instead, with the selector as error code, its two low bits cleared and bit 0 set for an external event; the saved EIP is
that of the V86 program, for INT n that of the INT n itself (log 31). That a selector without a descriptor counts as no such
segment is log 14, the zeros above the error code are log 48, and what the handler's state holds beside R203 is log 7, 14, 23
and 41. -/
def Obligations.BadGateTargetRaisesGp : Prop :=
  ∀ (s : State) (ev : Event) (g g13 : Gate) (code : SegDesc) (ss0 : Word) (stack : SegDesc) (esp0 : Dword)
    (u : State) (esp : Dword), s.vm = true → readGate s ev.vector = .ok g → g.present = true →
    (g.kind = .trap32 ∨ g.kind = .int32) →
    (∀ d, s.segDesc g.sel = some d → d.code = false ∨ d.conforming = true ∨ d.dpl ≠ 0) →
    GateOpen s
      { vector := 13
        err := some (((g.sel &&& 0xFFFC).setWidth 32) ||| (if ev.ext then 1 else 0))
        ext := ev.ext
        ret := s.eip
        trap := false } g13 code ss0 stack esp0 u esp →
    deliver s ev = .next (inHandler u false g13 code ss0 stack esp)

/-- R207, R208, R252, R26: a task switch that answers a next state saved EIP, EFLAGS, the general registers and the selectors of
the outgoing task in its own TSS, `saved` being the fields of R26 with their places and values, and no other byte of memory changed.
It loaded CR3, EIP, EFLAGS, the general registers, the selectors and LDTR from the incoming TSS; an 80286 TSS has no CR3, FS, GS or
upper halves, and clears VM. With VM = 1 in the new EFLAGS CPL is 3, every segment register is loaded by the 8086 rule, and EIP is
at most FFFFH; else each is null or from its descriptor. GDTR, IDTR, CR0, the debug and test registers stay. What the switch saves
and keeps, which EIP, the CPL with VM = 0 and the order are the model's choice (log 22), and so are the layout of an 80286 TSS (log
44), where descriptors are found (log 14) and what they make of a segment register (log 7, 21). -/
def Obligations.TaskSwitchLoadsSegmentsByNewVm : Prop :=
  ∀ (s t : State) (sel : Word) (eip : Dword), taskSwitch s sel eip = .ok t →
    (t.vm = true → t.cpl = 3 ∧ (∀ r, t.seg r = seg8086 (t.sel r)) ∧ t.eip.toNat ≤ 0xFFFF) ∧
    (t.vm = false → t.cpl = (t.sel .cs).extractLsb' 0 2 ∧
      ∀ r, (t.sel r &&& 0xFFFC = 0 ∧ t.seg r = nullSeg (t.sel r)) ∨
        ∃ c, s.segDesc (t.sel r) = some c ∧ t.seg r = descSeg (t.sel r) c) ∧
    t.gdtr = s.gdtr ∧ t.idtr = s.idtr ∧ t.ctrl.cr0 = s.ctrl.cr0 ∧ t.dbg = s.dbg ∧ t.tst = s.tst ∧
    (∃ d, s.tssDesc sel = some d ∧ t.tr = { sel := sel, base := d.base, limit := d.limit, is286 := d.is286 } ∧
      (d.is286 = true → t.vm = false) ∧
      (d.is286 = false → s.pg = false → d.base.toNat + 0x68 ≤ 2 ^ 32 →
        let image (k n : Nat) : Dword := t.mem.readAll (tssBytes d.base k n)
        t.ctrl.cr3 = image 0x1C 4 ∧ t.eip = image 0x20 4 ∧ t.eflags = Eflags.ofWord (image 0x24 4) ∧
        t.regs = { eax := image 0x28 4, ecx := image 0x2C 4, edx := image 0x30 4, ebx := image 0x34 4,
                   esp := image 0x38 4, ebp := image 0x3C 4, esi := image 0x40 4, edi := image 0x44 4 } ∧
        (∀ f ∈ [(0x48, SReg.es), (0x4C, .cs), (0x50, .ss), (0x54, .ds), (0x58, .fs), (0x5C, .gs)],
          (t.sel f.2).setWidth 32 = image f.1 2) ∧
        t.ldtr.setWidth 32 = image 0x60 2) ∧
      (d.is286 = true → s.pg = false → d.base.toNat + 0x2C ≤ 2 ^ 32 →
        let image (k : Nat) : Dword := t.mem.readAll (tssBytes d.base k 2)
        t.ctrl.cr3 = s.ctrl.cr3 ∧ t.eip = image 0x0E ∧ t.eflags = Eflags.ofWord (image 0x10) ∧
        (∀ f ∈ [(0x12, Reg.eax), (0x14, .ecx), (0x16, .edx), (0x18, .ebx), (0x1A, .esp), (0x1C, .ebp), (0x1E, .esi),
            (0x20, .edi)], (t.reg16 f.2).setWidth 32 = image f.1) ∧
        (∀ f ∈ [(0x22, SReg.es), (0x24, .cs), (0x26, .ss), (0x28, .ds)], (t.sel f.2).setWidth 32 = image f.1) ∧
        t.sel .fs = 0 ∧ t.sel .gs = 0 ∧ t.ldtr.setWidth 32 = image 0x2A)) ∧
    (∀ saved : List (Nat × Nat × Dword),
      saved =
        (if s.tr.is286 then
          [(0x0E, 2, eip), (0x10, 2, s.eflags.word), (0x12, 2, s.reg .eax), (0x14, 2, s.reg .ecx), (0x16, 2, s.reg .edx),
            (0x18, 2, s.reg .ebx), (0x1A, 2, s.reg .esp), (0x1C, 2, s.reg .ebp), (0x1E, 2, s.reg .esi),
            (0x20, 2, s.reg .edi), (0x22, 2, (s.sel .es).setWidth 32), (0x24, 2, (s.sel .cs).setWidth 32),
            (0x26, 2, (s.sel .ss).setWidth 32), (0x28, 2, (s.sel .ds).setWidth 32)]
        else
          [(0x20, 4, eip), (0x24, 4, s.eflags.word), (0x28, 4, s.reg .eax), (0x2C, 4, s.reg .ecx), (0x30, 4, s.reg .edx),
            (0x34, 4, s.reg .ebx), (0x38, 4, s.reg .esp), (0x3C, 4, s.reg .ebp), (0x40, 4, s.reg .esi),
            (0x44, 4, s.reg .edi), (0x48, 2, (s.sel .es).setWidth 32), (0x4C, 2, (s.sel .cs).setWidth 32),
            (0x50, 2, (s.sel .ss).setWidth 32), (0x54, 2, (s.sel .ds).setWidth 32), (0x58, 2, (s.sel .fs).setWidth 32),
            (0x5C, 2, (s.sel .gs).setWidth 32)]) →
      s.pg = false → memoryOk s = true → s.tr.base.toNat + 0x68 ≤ 2 ^ 32 →
      (∀ f ∈ saved, (t.mem.readAll (tssBytes s.tr.base f.1 f.2.1)).toNat = f.2.2.toNat % 2 ^ (8 * f.2.1)) ∧
      (∀ a, (∀ f ∈ saved, a ∉ tssBytes s.tr.base f.1 f.2.1) → t.mem.read a = s.mem.read a))

/-- R108, R207, R215: two occasions of a task switch. IRET in protected mode with NT = 1 switches to the task that the back link,
the word at offset 0 of the current TSS, names, and clears NmiMasked; the EIP that the outgoing task saves, that of the next
instruction, is the model's choice (log 22), and that an 80286 TSS has its link at offset 0 too is log 44. Delivery in V86 mode
through a present task gate switches to the task of the gate's selector and saves the event's EIP; that a single-step trap of the
INT n that it completes is then pending is log 23. -/
def Obligations.TaskSwitchOccasions : Prop :=
  (∀ (s t : State) (link : Dword), s.pfx.lock = false → s.mode = .prot → s.eflags.nt = true →
    (if s.tr.is286 then 0x2B else 0x67) ≤ s.tr.limit.toNat → linRead s s.tr.base 2 .supervisor = .ok link →
    taskSwitch { s with intShadow := false, ssShadow := false } (link.setWidth 16) (s.eip + BitVec.ofNat 32 s.ilen) = .ok t →
    exec .iret s = .next (jumped s { t with nmiMasked := false })) ∧
  (∀ (s t : State) (ev : Event) (g : Gate), s.vm = true → readGate s ev.vector = .ok g → g.present = true →
    g.kind = .task → taskSwitch s g.sel ev.ret = .ok t →
    deliver s ev = .next { t with trapPending := t.trapPending || ev.trap })

/-! Instruction boundaries. -/

/-- R31, D23, D15, D32: what the environment offers at a boundary is taken in before anything else: one request of each kind
becomes pending, but for a masked NMI, which a free value remembers or loses, and the bytes that other bus masters wrote stand in
memory, the latest write counting. A write outside the 32-bit physical addresses is the one fault. That the offers are a list in
State is log 25, that other bus masters write at boundaries only is log 39, the free value log 26, that a second NMI or
floating-point error merges with the pending one log 55. -/
def Obligations.BoundaryTakesOffer : Prop :=
  ∀ s : State, s.ilen = 0 →
    (s.extEvents = [] → absorb s = .ok s) ∧
    (∀ o rest, s.extEvents = o :: rest →
      ((∀ c ∈ o.busWrites, c.1 < 2 ^ 32) →
        ∃ u, absorb s = .ok u ∧
          u = { s with
                mem := u.mem
                extEvents := rest
                irqs := s.irqs ++ o.irq.toList
                nmiPending := s.nmiPending || (o.nmi && (!s.nmiMasked || Config.maskedNmiKept s.draws))
                fpPending := s.fpPending || o.fpError
                draws := s.draws + (o.nmi && s.nmiMasked).toNat } ∧
          (memoryOk s = true → ∀ a, u.mem.read a =
            (match (o.busWrites.filter fun c => c.1 == a).getLast? with
              | some c => c.2
              | none => s.mem.read a))) ∧
      ((∃ c ∈ o.busWrites, 2 ^ 32 ≤ c.1) →
        ∃ c ∈ o.busWrites, 2 ^ 32 ≤ c.1 ∧ step s = .fault (.busAddress c.1)))

/-- R215, R214, R216, R23, R33, R225: at a boundary, after what the environment offers there was taken in, a pending single-step
trap is delivered first, whatever else is pending, as vector 1 with the next instruction's EIP saved and no error code. With no
trap pending an NMI is accepted whatever IF holds, as vector 2, and masks further ones; with none to accept, the oldest external
request is, when IF = 1 and there is no shadow. A load of SS just before holds all three back (D22, log 24). That the oldest
request comes first is the model's choice (log 27), and so is that the event is no longer pending even if its gate fails R206's check
(log 53), and that the EIP saved is 10000H after an instruction that ends at offset FFFFH is log 57. -/
def Obligations.EventsTakenInOrder : Prop :=
  ∀ s u : State, s.ilen = 0 → absorb s = .ok u → u.ssShadow = false →
    (u.trapPending = true →
      step s =
        deliver { u with trapPending := false }
          { vector := 1, err := none, ext := false, ret := u.eip, trap := false }) ∧
    (u.trapPending = false → u.nmiPending = true → u.nmiMasked = false →
      step s =
        deliver { u with nmiMasked := true, nmiPending := false }
          { vector := 2, err := none, ext := true, ret := u.eip, trap := false }) ∧
    (∀ v vs, u.trapPending = false → (u.nmiPending = false ∨ u.nmiMasked = true) → u.eflags.intf = true →
      u.intShadow = false → u.irqs = v :: vs →
      step s =
        deliver { u with irqs := vs } { vector := v, err := none, ext := true, ret := u.eip, trap := false })

/-- R23, R33, R216, D22: with IF = 0 or in a shadow no external interrupt is taken, while NmiMasked is 1 no NMI, and in the shadow
of a load of SS neither of them nor a single-step trap: the boundary goes on to the next instruction with all of them still
pending, or, when the processor is halted, stays there (log 36). The reach of the shadow of SS is log 24. -/
def Obligations.MaskedEventsStayPending : Prop :=
  ∀ s u : State, s.ilen = 0 → absorb s = .ok u →
    (u.trapPending = false ∨ u.ssShadow = true) →
    (u.nmiPending = false ∨ u.nmiMasked = true ∨ u.ssShadow = true) →
    (u.irqs = [] ∨ u.eflags.intf = false ∨ u.intShadow = true ∨ u.ssShadow = true) →
    step s =
      if u.halted then .next u
      else
        match nextInstruction u with
        | .outcome o => o
        | .execute i v => exec i v
end

