-- ==== Sys2Proof/Laws/Memory.lean ====
section
/-! SUPPORT. Memory: what a write does to each byte, and that every memory operation keeps the canonical form. -/

namespace Sys2Proof.Laws

open Sys2Proof.Machine Sys2Proof.Safety

theorem wfFrom_mono {m : Memory} {lo lo' : Nat} (h : m.wfFrom lo = true) (hl : lo' ≤ lo) : m.wfFrom lo' = true := by
  cases m with
  | nil => rfl
  | cons c m =>
    simp only [Memory.wfFrom, Bool.and_eq_true, decide_eq_true_eq] at h ⊢
    exact ⟨⟨by omega, h.1.2⟩, h.2⟩

/-- Below the addresses of a canonical memory nothing is listed. -/
theorem read_below {m : Memory} {lo a : Nat} (h : m.wfFrom lo = true) (ha : a < lo) : m.read a = unlistedByte := by
  induction m generalizing lo with
  | nil => rfl
  | cons c m ih =>
    simp only [Memory.wfFrom, Bool.and_eq_true, decide_eq_true_eq] at h
    simp only [Memory.read, if_neg (show c.1 ≠ a by omega)]
    exact ih h.2 (by omega)

/-- Only the byte at the address changes. -/
theorem read_write_other (m : Memory) {a b : Nat} (v : Byte) (h : b ≠ a) : (m.write a v).read b = m.read b := by
  induction m with
  | nil =>
    simp only [Memory.write]
    split
    · rfl
    · simp [Memory.read, Ne.symm h]
  | cons c m ih =>
    simp only [Memory.write]
    split
    · split
      · rfl
      · simp [Memory.read, Ne.symm h]
    · split
      · rename_i e
        split
        · simp [Memory.read, ← e, Ne.symm h]
        · simp [Memory.read, ← e, Ne.symm h]
      · simp [Memory.read, ih]

theorem read_write_same_from {m : Memory} {lo : Nat} (a : Nat) (v : Byte) (h : m.wfFrom lo = true) :
    (m.write a v).read a = v := by
  induction m generalizing lo with
  | nil =>
    simp only [Memory.write]
    split
    · rename_i e; simp [Memory.read, e]
    · simp [Memory.read]
  | cons c m ih =>
    simp only [Memory.wfFrom, Bool.and_eq_true, decide_eq_true_eq] at h
    simp only [Memory.write]
    split
    · split
      · rename_i hlt e
        simp only [Memory.read, if_neg (show c.1 ≠ a by omega), e]
        exact read_below h.2 (by omega)
      · simp [Memory.read]
    · split
      · rename_i e
        split
        · rename_i e2
          rw [e2]
          exact read_below h.2 (by omega)
        · simp [Memory.read]
      · rename_i hlt hne
        simp only [Memory.read, if_neg (show c.1 ≠ a by omega)]
        exact ih h.2

/-- A canonical memory gives back the byte just written. -/
theorem read_write_same {m : Memory} (a : Nat) (v : Byte) (h : m.wf = true) : (m.write a v).read a = v :=
  read_write_same_from a v h

theorem write_wfFrom {m : Memory} {lo a : Nat} (v : Byte) (h : m.wfFrom lo = true) (ha : lo ≤ a) :
    (m.write a v).wfFrom lo = true := by
  induction m generalizing lo with
  | nil =>
    simp only [Memory.write]
    split
    · rfl
    · rename_i e; simp [Memory.wfFrom, ha, e]
  | cons c m ih =>
    have h0 := h
    simp only [Memory.wfFrom, Bool.and_eq_true, decide_eq_true_eq] at h
    simp only [Memory.write]
    split
    · split
      · exact h0
      · rename_i e
        simp only [Memory.wfFrom, Bool.and_eq_true, decide_eq_true_eq]
        exact ⟨⟨ha, e⟩, ⟨by omega, h.1.2⟩, h.2⟩
    · split
      · rename_i e
        split
        · exact wfFrom_mono h.2 (by omega)
        · rename_i e2
          simp only [Memory.wfFrom, Bool.and_eq_true, decide_eq_true_eq]
          exact ⟨⟨ha, e2⟩, by rw [e]; exact h.2⟩
      · simp only [Memory.wfFrom, Bool.and_eq_true, decide_eq_true_eq]
        exact ⟨h.1, ih h.2 (by omega)⟩

/-- A write keeps the canonical form. -/
theorem write_wf {m : Memory} (a : Nat) (v : Byte) (h : m.wf = true) : (m.write a v).wf = true :=
  write_wfFrom v h (Nat.zero_le a)

/-- A store of several bytes keeps the canonical form. -/
theorem writeAll_wf {m : Memory} (pas : List Nat) (v : Dword) (h : m.wf = true) : (m.writeAll pas v).wf = true := by
  induction pas generalizing m v with
  | nil => exact h
  | cons a as ih => exact ih _ (write_wf a _ h)

/-- The writes of other bus masters keep the canonical form. -/
theorem busWrite_wf {m : Memory} (ws : List Host.Cell) (h : m.wf = true) : (busWrite m ws).wf = true := by
  induction ws generalizing m with
  | nil => exact h
  | cons c ws ih => exact ih (write_wf c.1 c.2 h)

/-- Storing code keeps the canonical form. -/
theorem storeCode_wf (s : State) {m : Memory} (k : Nat) (bs : List Byte) (h : m.wf = true) :
    (storeCode s m k bs).wf = true := by
  induction bs generalizing m k with
  | nil => exact h
  | cons b bs ih =>
    simp only [storeCode]
    split
    · exact ih _ (write_wf _ b h)
    · exact ih _ h

/-- Memory after reset has the canonical form. -/
theorem reset_wf : State.reset.mem.wf = true := rfl

/-- A byte outside the addresses stored to keeps its value. -/
theorem read_writeAll_other (m : Memory) (pas : List Nat) (v : Dword) {a : Nat} (h : a ∉ pas) :
    (m.writeAll pas v).read a = m.read a := by
  induction pas generalizing m v with
  | nil => rfl
  | cons b as ih =>
    simp only [List.mem_cons, not_or] at h
    simp only [Memory.writeAll]
    rw [ih _ _ h.2, read_write_other _ _ h.1]

/-- The first byte stored is the lowest-order byte of the value (R55). -/
theorem read_writeAll_head {m : Memory} {a : Nat} {as : List Nat} (v : Dword) (hm : m.wf = true) (h : a ∉ as) :
    (m.writeAll (a :: as) v).read a = v.setWidth 8 := by
  simp only [Memory.writeAll]
  rw [read_writeAll_other _ _ _ h, read_write_same _ _ hm]

theorem range_cons (c : Host.Cell) (m : Memory) :
    addressesInRange (c :: m) = true ↔ c.1 < 2 ^ 32 ∧ addressesInRange m = true := by
  simp only [addressesInRange, List.all_cons, Bool.and_eq_true, decide_eq_true_eq]

theorem write_range {m : Memory} {a : Nat} (v : Byte) (ha : a < 2 ^ 32) (h : addressesInRange m = true) :
    addressesInRange (m.write a v) = true := by
  induction m with
  | nil =>
    simp only [Memory.write]
    split
    · rfl
    · exact (range_cons _ _).2 ⟨ha, rfl⟩
  | cons c m ih =>
    have h2 := (range_cons _ _).1 h
    simp only [Memory.write]
    split
    · split
      · exact h
      · exact (range_cons _ _).2 ⟨ha, h⟩
    · split
      · split
        · exact h2.2
        · exact (range_cons _ _).2 ⟨ha, h2.2⟩
      · exact (range_cons _ _).2 ⟨h2.1, ih h2.2⟩

/-- A store to physical addresses keeps the listed addresses physical. -/
theorem writeAll_range {m : Memory} (pas : List Nat) (v : Dword) (hp : ∀ a ∈ pas, a < 2 ^ 32)
    (h : addressesInRange m = true) : addressesInRange (m.writeAll pas v) = true := by
  induction pas generalizing m v with
  | nil => exact h
  | cons b as ih =>
    simp only [List.mem_cons, forall_eq_or_imp] at hp
    exact ih _ hp.2 (write_range _ hp.1 h)

/-- The writes of other bus masters that raise no fault keep the listed addresses physical. -/
theorem busWrite_range {m : Memory} (ws : List Host.Cell) (hw : badBusAddress ws = none)
    (h : addressesInRange m = true) : addressesInRange (busWrite m ws) = true := by
  induction ws generalizing m with
  | nil => exact h
  | cons c ws ih =>
    simp only [badBusAddress, List.map_cons, List.find?_cons] at hw
    split at hw
    · cases hw
    · rename_i hc
      exact ih hw (write_range _ (by simpa using hc) h)

/-- Two canonical memories that read alike are the same data. -/
theorem memory_ext {m m' : Memory} (h : m.wf = true) (h' : m'.wf = true) (e : ∀ a, m.read a = m'.read a) : m = m' := by
  unfold Memory.wf at h h'
  generalize 0 = lo at h h'
  induction m generalizing m' lo with
  | nil =>
    cases m' with
    | nil => rfl
    | cons c m' =>
      simp only [Memory.wfFrom, Bool.and_eq_true, decide_eq_true_eq] at h'
      have := e c.1
      simp only [Memory.read, if_true] at this
      exact absurd this.symm h'.1.2
  | cons c m ih =>
    simp only [Memory.wfFrom, Bool.and_eq_true, decide_eq_true_eq] at h
    cases m' with
    | nil =>
      have := e c.1
      simp only [Memory.read, if_true] at this
      exact absurd this h.1.2
    | cons d m' =>
      simp only [Memory.wfFrom, Bool.and_eq_true, decide_eq_true_eq] at h'
      have e1 := e c.1
      have e2 := e d.1
      simp only [Memory.read, if_true] at e1 e2
      have hk : c.1 = d.1 := by
        rcases Nat.lt_trichotomy c.1 d.1 with hlt | heq | hgt
        · rw [if_neg (by omega), read_below h'.2 (by omega)] at e1
          exact absurd e1 h.1.2
        · exact heq
        · rw [if_neg (by omega), read_below h.2 (by omega)] at e2
          exact absurd e2.symm h'.1.2
      rw [if_pos hk.symm] at e1
      have hc : c = d := Prod.ext hk e1
      subst hc
      congr 1
      refine ih (fun a => ?_) (c.1 + 1) h.2 h'.2
      by_cases ha : c.1 = a
      · rw [read_below h.2 (by omega), read_below h'.2 (by omega)]
      · have := e a
        simpa [Memory.read, ha] using this

end Sys2Proof.Laws
end

