-- ==== Sys2Proof/Laws/State.lean ====
section
/-! SUPPORT. For each update of the state, what each field holds after it: the small lemmas by which no proof need unfold a
record update. -/

namespace Sys2Proof.Laws

open Sys2Proof.Machine Sys2Proof.Safety

/-! `State.setReg`. -/

@[simp] theorem setReg_regs (s : State) (r : Reg) (v : Dword) : (s.setReg r v).regs = s.regs.set r v := rfl
@[simp] theorem setReg_segs (s : State) (r : Reg) (v : Dword) : (s.setReg r v).segs = s.segs := rfl
@[simp] theorem setReg_eip (s : State) (r : Reg) (v : Dword) : (s.setReg r v).eip = s.eip := rfl
@[simp] theorem setReg_eflags (s : State) (r : Reg) (v : Dword) : (s.setReg r v).eflags = s.eflags := rfl
@[simp] theorem setReg_cpl (s : State) (r : Reg) (v : Dword) : (s.setReg r v).cpl = s.cpl := rfl
@[simp] theorem setReg_ctrl (s : State) (r : Reg) (v : Dword) : (s.setReg r v).ctrl = s.ctrl := rfl
@[simp] theorem setReg_dbg (s : State) (r : Reg) (v : Dword) : (s.setReg r v).dbg = s.dbg := rfl
@[simp] theorem setReg_tst (s : State) (r : Reg) (v : Dword) : (s.setReg r v).tst = s.tst := rfl
@[simp] theorem setReg_gdtr (s : State) (r : Reg) (v : Dword) : (s.setReg r v).gdtr = s.gdtr := rfl
@[simp] theorem setReg_idtr (s : State) (r : Reg) (v : Dword) : (s.setReg r v).idtr = s.idtr := rfl
@[simp] theorem setReg_ldtr (s : State) (r : Reg) (v : Dword) : (s.setReg r v).ldtr = s.ldtr := rfl
@[simp] theorem setReg_tr (s : State) (r : Reg) (v : Dword) : (s.setReg r v).tr = s.tr := rfl
@[simp] theorem setReg_nmiMasked (s : State) (r : Reg) (v : Dword) : (s.setReg r v).nmiMasked = s.nmiMasked := rfl
@[simp] theorem setReg_intShadow (s : State) (r : Reg) (v : Dword) : (s.setReg r v).intShadow = s.intShadow := rfl
@[simp] theorem setReg_ssShadow (s : State) (r : Reg) (v : Dword) : (s.setReg r v).ssShadow = s.ssShadow := rfl
@[simp] theorem setReg_trapPending (s : State) (r : Reg) (v : Dword) : (s.setReg r v).trapPending = s.trapPending := rfl
@[simp] theorem setReg_nmiPending (s : State) (r : Reg) (v : Dword) : (s.setReg r v).nmiPending = s.nmiPending := rfl
@[simp] theorem setReg_fpPending (s : State) (r : Reg) (v : Dword) : (s.setReg r v).fpPending = s.fpPending := rfl
@[simp] theorem setReg_irqs (s : State) (r : Reg) (v : Dword) : (s.setReg r v).irqs = s.irqs := rfl
@[simp] theorem setReg_extEvents (s : State) (r : Reg) (v : Dword) : (s.setReg r v).extEvents = s.extEvents := rfl
@[simp] theorem setReg_halted (s : State) (r : Reg) (v : Dword) : (s.setReg r v).halted = s.halted := rfl
@[simp] theorem setReg_mem (s : State) (r : Reg) (v : Dword) : (s.setReg r v).mem = s.mem := rfl
@[simp] theorem setReg_pageMap (s : State) (r : Reg) (v : Dword) : (s.setReg r v).pageMap = s.pageMap := rfl
@[simp] theorem setReg_descriptors (s : State) (r : Reg) (v : Dword) : (s.setReg r v).descriptors = s.descriptors := rfl
@[simp] theorem setReg_written (s : State) (r : Reg) (v : Dword) : (s.setReg r v).written = s.written := rfl
@[simp] theorem setReg_ioTrace (s : State) (r : Reg) (v : Dword) : (s.setReg r v).ioTrace = s.ioTrace := rfl
@[simp] theorem setReg_draws (s : State) (r : Reg) (v : Dword) : (s.setReg r v).draws = s.draws := rfl
@[simp] theorem setReg_ilen (s : State) (r : Reg) (v : Dword) : (s.setReg r v).ilen = s.ilen := rfl
@[simp] theorem setReg_pfx (s : State) (r : Reg) (v : Dword) : (s.setReg r v).pfx = s.pfx := rfl
@[simp] theorem setReg_iterating (s : State) (r : Reg) (v : Dword) : (s.setReg r v).iterating = s.iterating := rfl

/-! `State.setReg16`. -/

@[simp] theorem setReg16_regs (s : State) (r : Reg) (v : Word) : (s.setReg16 r v).regs = s.regs.set r (putLow16 (s.regs.get r) v) := rfl
@[simp] theorem setReg16_segs (s : State) (r : Reg) (v : Word) : (s.setReg16 r v).segs = s.segs := rfl
@[simp] theorem setReg16_eip (s : State) (r : Reg) (v : Word) : (s.setReg16 r v).eip = s.eip := rfl
@[simp] theorem setReg16_eflags (s : State) (r : Reg) (v : Word) : (s.setReg16 r v).eflags = s.eflags := rfl
@[simp] theorem setReg16_cpl (s : State) (r : Reg) (v : Word) : (s.setReg16 r v).cpl = s.cpl := rfl
@[simp] theorem setReg16_ctrl (s : State) (r : Reg) (v : Word) : (s.setReg16 r v).ctrl = s.ctrl := rfl
@[simp] theorem setReg16_dbg (s : State) (r : Reg) (v : Word) : (s.setReg16 r v).dbg = s.dbg := rfl
@[simp] theorem setReg16_tst (s : State) (r : Reg) (v : Word) : (s.setReg16 r v).tst = s.tst := rfl
@[simp] theorem setReg16_gdtr (s : State) (r : Reg) (v : Word) : (s.setReg16 r v).gdtr = s.gdtr := rfl
@[simp] theorem setReg16_idtr (s : State) (r : Reg) (v : Word) : (s.setReg16 r v).idtr = s.idtr := rfl
@[simp] theorem setReg16_ldtr (s : State) (r : Reg) (v : Word) : (s.setReg16 r v).ldtr = s.ldtr := rfl
@[simp] theorem setReg16_tr (s : State) (r : Reg) (v : Word) : (s.setReg16 r v).tr = s.tr := rfl
@[simp] theorem setReg16_nmiMasked (s : State) (r : Reg) (v : Word) : (s.setReg16 r v).nmiMasked = s.nmiMasked := rfl
@[simp] theorem setReg16_intShadow (s : State) (r : Reg) (v : Word) : (s.setReg16 r v).intShadow = s.intShadow := rfl
@[simp] theorem setReg16_ssShadow (s : State) (r : Reg) (v : Word) : (s.setReg16 r v).ssShadow = s.ssShadow := rfl
@[simp] theorem setReg16_trapPending (s : State) (r : Reg) (v : Word) : (s.setReg16 r v).trapPending = s.trapPending := rfl
@[simp] theorem setReg16_nmiPending (s : State) (r : Reg) (v : Word) : (s.setReg16 r v).nmiPending = s.nmiPending := rfl
@[simp] theorem setReg16_fpPending (s : State) (r : Reg) (v : Word) : (s.setReg16 r v).fpPending = s.fpPending := rfl
@[simp] theorem setReg16_irqs (s : State) (r : Reg) (v : Word) : (s.setReg16 r v).irqs = s.irqs := rfl
@[simp] theorem setReg16_extEvents (s : State) (r : Reg) (v : Word) : (s.setReg16 r v).extEvents = s.extEvents := rfl
@[simp] theorem setReg16_halted (s : State) (r : Reg) (v : Word) : (s.setReg16 r v).halted = s.halted := rfl
@[simp] theorem setReg16_mem (s : State) (r : Reg) (v : Word) : (s.setReg16 r v).mem = s.mem := rfl
@[simp] theorem setReg16_pageMap (s : State) (r : Reg) (v : Word) : (s.setReg16 r v).pageMap = s.pageMap := rfl
@[simp] theorem setReg16_descriptors (s : State) (r : Reg) (v : Word) : (s.setReg16 r v).descriptors = s.descriptors := rfl
@[simp] theorem setReg16_written (s : State) (r : Reg) (v : Word) : (s.setReg16 r v).written = s.written := rfl
@[simp] theorem setReg16_ioTrace (s : State) (r : Reg) (v : Word) : (s.setReg16 r v).ioTrace = s.ioTrace := rfl
@[simp] theorem setReg16_draws (s : State) (r : Reg) (v : Word) : (s.setReg16 r v).draws = s.draws := rfl
@[simp] theorem setReg16_ilen (s : State) (r : Reg) (v : Word) : (s.setReg16 r v).ilen = s.ilen := rfl
@[simp] theorem setReg16_pfx (s : State) (r : Reg) (v : Word) : (s.setReg16 r v).pfx = s.pfx := rfl
@[simp] theorem setReg16_iterating (s : State) (r : Reg) (v : Word) : (s.setReg16 r v).iterating = s.iterating := rfl

/-! `State.setReg8`. -/

@[simp] theorem setReg8_regs (s : State) (r : Reg8) (v : Byte) : (s.setReg8 r v).regs = s.regs.set (wholeReg r) (if isHighReg r then putHigh8 (s.regs.get (wholeReg r)) v else putLow8 (s.regs.get (wholeReg r)) v) := rfl
@[simp] theorem setReg8_segs (s : State) (r : Reg8) (v : Byte) : (s.setReg8 r v).segs = s.segs := rfl
@[simp] theorem setReg8_eip (s : State) (r : Reg8) (v : Byte) : (s.setReg8 r v).eip = s.eip := rfl
@[simp] theorem setReg8_eflags (s : State) (r : Reg8) (v : Byte) : (s.setReg8 r v).eflags = s.eflags := rfl
@[simp] theorem setReg8_cpl (s : State) (r : Reg8) (v : Byte) : (s.setReg8 r v).cpl = s.cpl := rfl
@[simp] theorem setReg8_ctrl (s : State) (r : Reg8) (v : Byte) : (s.setReg8 r v).ctrl = s.ctrl := rfl
@[simp] theorem setReg8_dbg (s : State) (r : Reg8) (v : Byte) : (s.setReg8 r v).dbg = s.dbg := rfl
@[simp] theorem setReg8_tst (s : State) (r : Reg8) (v : Byte) : (s.setReg8 r v).tst = s.tst := rfl
@[simp] theorem setReg8_gdtr (s : State) (r : Reg8) (v : Byte) : (s.setReg8 r v).gdtr = s.gdtr := rfl
@[simp] theorem setReg8_idtr (s : State) (r : Reg8) (v : Byte) : (s.setReg8 r v).idtr = s.idtr := rfl
@[simp] theorem setReg8_ldtr (s : State) (r : Reg8) (v : Byte) : (s.setReg8 r v).ldtr = s.ldtr := rfl
@[simp] theorem setReg8_tr (s : State) (r : Reg8) (v : Byte) : (s.setReg8 r v).tr = s.tr := rfl
@[simp] theorem setReg8_nmiMasked (s : State) (r : Reg8) (v : Byte) : (s.setReg8 r v).nmiMasked = s.nmiMasked := rfl
@[simp] theorem setReg8_intShadow (s : State) (r : Reg8) (v : Byte) : (s.setReg8 r v).intShadow = s.intShadow := rfl
@[simp] theorem setReg8_ssShadow (s : State) (r : Reg8) (v : Byte) : (s.setReg8 r v).ssShadow = s.ssShadow := rfl
@[simp] theorem setReg8_trapPending (s : State) (r : Reg8) (v : Byte) : (s.setReg8 r v).trapPending = s.trapPending := rfl
@[simp] theorem setReg8_nmiPending (s : State) (r : Reg8) (v : Byte) : (s.setReg8 r v).nmiPending = s.nmiPending := rfl
@[simp] theorem setReg8_fpPending (s : State) (r : Reg8) (v : Byte) : (s.setReg8 r v).fpPending = s.fpPending := rfl
@[simp] theorem setReg8_irqs (s : State) (r : Reg8) (v : Byte) : (s.setReg8 r v).irqs = s.irqs := rfl
@[simp] theorem setReg8_extEvents (s : State) (r : Reg8) (v : Byte) : (s.setReg8 r v).extEvents = s.extEvents := rfl
@[simp] theorem setReg8_halted (s : State) (r : Reg8) (v : Byte) : (s.setReg8 r v).halted = s.halted := rfl
@[simp] theorem setReg8_mem (s : State) (r : Reg8) (v : Byte) : (s.setReg8 r v).mem = s.mem := rfl
@[simp] theorem setReg8_pageMap (s : State) (r : Reg8) (v : Byte) : (s.setReg8 r v).pageMap = s.pageMap := rfl
@[simp] theorem setReg8_descriptors (s : State) (r : Reg8) (v : Byte) : (s.setReg8 r v).descriptors = s.descriptors := rfl
@[simp] theorem setReg8_written (s : State) (r : Reg8) (v : Byte) : (s.setReg8 r v).written = s.written := rfl
@[simp] theorem setReg8_ioTrace (s : State) (r : Reg8) (v : Byte) : (s.setReg8 r v).ioTrace = s.ioTrace := rfl
@[simp] theorem setReg8_draws (s : State) (r : Reg8) (v : Byte) : (s.setReg8 r v).draws = s.draws := rfl
@[simp] theorem setReg8_ilen (s : State) (r : Reg8) (v : Byte) : (s.setReg8 r v).ilen = s.ilen := rfl
@[simp] theorem setReg8_pfx (s : State) (r : Reg8) (v : Byte) : (s.setReg8 r v).pfx = s.pfx := rfl
@[simp] theorem setReg8_iterating (s : State) (r : Reg8) (v : Byte) : (s.setReg8 r v).iterating = s.iterating := rfl

/-! `State.setSeg`. -/

@[simp] theorem setSeg_regs (s : State) (r : SReg) (v : SegReg) : (s.setSeg r v).regs = s.regs := rfl
@[simp] theorem setSeg_segs (s : State) (r : SReg) (v : SegReg) : (s.setSeg r v).segs = s.segs.set r v := rfl
@[simp] theorem setSeg_eip (s : State) (r : SReg) (v : SegReg) : (s.setSeg r v).eip = s.eip := rfl
@[simp] theorem setSeg_eflags (s : State) (r : SReg) (v : SegReg) : (s.setSeg r v).eflags = s.eflags := rfl
@[simp] theorem setSeg_cpl (s : State) (r : SReg) (v : SegReg) : (s.setSeg r v).cpl = s.cpl := rfl
@[simp] theorem setSeg_ctrl (s : State) (r : SReg) (v : SegReg) : (s.setSeg r v).ctrl = s.ctrl := rfl
@[simp] theorem setSeg_dbg (s : State) (r : SReg) (v : SegReg) : (s.setSeg r v).dbg = s.dbg := rfl
@[simp] theorem setSeg_tst (s : State) (r : SReg) (v : SegReg) : (s.setSeg r v).tst = s.tst := rfl
@[simp] theorem setSeg_gdtr (s : State) (r : SReg) (v : SegReg) : (s.setSeg r v).gdtr = s.gdtr := rfl
@[simp] theorem setSeg_idtr (s : State) (r : SReg) (v : SegReg) : (s.setSeg r v).idtr = s.idtr := rfl
@[simp] theorem setSeg_ldtr (s : State) (r : SReg) (v : SegReg) : (s.setSeg r v).ldtr = s.ldtr := rfl
@[simp] theorem setSeg_tr (s : State) (r : SReg) (v : SegReg) : (s.setSeg r v).tr = s.tr := rfl
@[simp] theorem setSeg_nmiMasked (s : State) (r : SReg) (v : SegReg) : (s.setSeg r v).nmiMasked = s.nmiMasked := rfl
@[simp] theorem setSeg_intShadow (s : State) (r : SReg) (v : SegReg) : (s.setSeg r v).intShadow = s.intShadow := rfl
@[simp] theorem setSeg_ssShadow (s : State) (r : SReg) (v : SegReg) : (s.setSeg r v).ssShadow = s.ssShadow := rfl
@[simp] theorem setSeg_trapPending (s : State) (r : SReg) (v : SegReg) : (s.setSeg r v).trapPending = s.trapPending := rfl
@[simp] theorem setSeg_nmiPending (s : State) (r : SReg) (v : SegReg) : (s.setSeg r v).nmiPending = s.nmiPending := rfl
@[simp] theorem setSeg_fpPending (s : State) (r : SReg) (v : SegReg) : (s.setSeg r v).fpPending = s.fpPending := rfl
@[simp] theorem setSeg_irqs (s : State) (r : SReg) (v : SegReg) : (s.setSeg r v).irqs = s.irqs := rfl
@[simp] theorem setSeg_extEvents (s : State) (r : SReg) (v : SegReg) : (s.setSeg r v).extEvents = s.extEvents := rfl
@[simp] theorem setSeg_halted (s : State) (r : SReg) (v : SegReg) : (s.setSeg r v).halted = s.halted := rfl
@[simp] theorem setSeg_mem (s : State) (r : SReg) (v : SegReg) : (s.setSeg r v).mem = s.mem := rfl
@[simp] theorem setSeg_pageMap (s : State) (r : SReg) (v : SegReg) : (s.setSeg r v).pageMap = s.pageMap := rfl
@[simp] theorem setSeg_descriptors (s : State) (r : SReg) (v : SegReg) : (s.setSeg r v).descriptors = s.descriptors := rfl
@[simp] theorem setSeg_written (s : State) (r : SReg) (v : SegReg) : (s.setSeg r v).written = s.written := rfl
@[simp] theorem setSeg_ioTrace (s : State) (r : SReg) (v : SegReg) : (s.setSeg r v).ioTrace = s.ioTrace := rfl
@[simp] theorem setSeg_draws (s : State) (r : SReg) (v : SegReg) : (s.setSeg r v).draws = s.draws := rfl
@[simp] theorem setSeg_ilen (s : State) (r : SReg) (v : SegReg) : (s.setSeg r v).ilen = s.ilen := rfl
@[simp] theorem setSeg_pfx (s : State) (r : SReg) (v : SegReg) : (s.setSeg r v).pfx = s.pfx := rfl
@[simp] theorem setSeg_iterating (s : State) (r : SReg) (v : SegReg) : (s.setSeg r v).iterating = s.iterating := rfl

/-! `State.begin`. -/

@[simp] theorem begin_regs (s : State) : (s.begin).regs = s.regs := rfl
@[simp] theorem begin_segs (s : State) : (s.begin).segs = s.segs := rfl
@[simp] theorem begin_eip (s : State) : (s.begin).eip = s.eip := rfl
@[simp] theorem begin_eflags (s : State) : (s.begin).eflags = s.eflags := rfl
@[simp] theorem begin_cpl (s : State) : (s.begin).cpl = s.cpl := rfl
@[simp] theorem begin_ctrl (s : State) : (s.begin).ctrl = s.ctrl := rfl
@[simp] theorem begin_dbg (s : State) : (s.begin).dbg = s.dbg := rfl
@[simp] theorem begin_tst (s : State) : (s.begin).tst = s.tst := rfl
@[simp] theorem begin_gdtr (s : State) : (s.begin).gdtr = s.gdtr := rfl
@[simp] theorem begin_idtr (s : State) : (s.begin).idtr = s.idtr := rfl
@[simp] theorem begin_ldtr (s : State) : (s.begin).ldtr = s.ldtr := rfl
@[simp] theorem begin_tr (s : State) : (s.begin).tr = s.tr := rfl
@[simp] theorem begin_nmiMasked (s : State) : (s.begin).nmiMasked = s.nmiMasked := rfl
@[simp] theorem begin_intShadow (s : State) : (s.begin).intShadow = false := rfl
@[simp] theorem begin_ssShadow (s : State) : (s.begin).ssShadow = false := rfl
@[simp] theorem begin_trapPending (s : State) : (s.begin).trapPending = s.trapPending := rfl
@[simp] theorem begin_nmiPending (s : State) : (s.begin).nmiPending = s.nmiPending := rfl
@[simp] theorem begin_fpPending (s : State) : (s.begin).fpPending = s.fpPending := rfl
@[simp] theorem begin_irqs (s : State) : (s.begin).irqs = s.irqs := rfl
@[simp] theorem begin_extEvents (s : State) : (s.begin).extEvents = s.extEvents := rfl
@[simp] theorem begin_halted (s : State) : (s.begin).halted = s.halted := rfl
@[simp] theorem begin_mem (s : State) : (s.begin).mem = s.mem := rfl
@[simp] theorem begin_pageMap (s : State) : (s.begin).pageMap = s.pageMap := rfl
@[simp] theorem begin_descriptors (s : State) : (s.begin).descriptors = s.descriptors := rfl
@[simp] theorem begin_written (s : State) : (s.begin).written = s.written := rfl
@[simp] theorem begin_ioTrace (s : State) : (s.begin).ioTrace = s.ioTrace := rfl
@[simp] theorem begin_draws (s : State) : (s.begin).draws = s.draws := rfl
@[simp] theorem begin_ilen (s : State) : (s.begin).ilen = s.ilen := rfl
@[simp] theorem begin_pfx (s : State) : (s.begin).pfx = s.pfx := rfl
@[simp] theorem begin_iterating (s : State) : (s.begin).iterating = s.iterating := rfl

/-! `State.storeAt`. -/

@[simp] theorem storeAt_regs (s : State) (pas : List Nat) (v : Dword) : (s.storeAt pas v).regs = s.regs := rfl
@[simp] theorem storeAt_segs (s : State) (pas : List Nat) (v : Dword) : (s.storeAt pas v).segs = s.segs := rfl
@[simp] theorem storeAt_eip (s : State) (pas : List Nat) (v : Dword) : (s.storeAt pas v).eip = s.eip := rfl
@[simp] theorem storeAt_eflags (s : State) (pas : List Nat) (v : Dword) : (s.storeAt pas v).eflags = s.eflags := rfl
@[simp] theorem storeAt_cpl (s : State) (pas : List Nat) (v : Dword) : (s.storeAt pas v).cpl = s.cpl := rfl
@[simp] theorem storeAt_ctrl (s : State) (pas : List Nat) (v : Dword) : (s.storeAt pas v).ctrl = s.ctrl := rfl
@[simp] theorem storeAt_dbg (s : State) (pas : List Nat) (v : Dword) : (s.storeAt pas v).dbg = s.dbg := rfl
@[simp] theorem storeAt_tst (s : State) (pas : List Nat) (v : Dword) : (s.storeAt pas v).tst = s.tst := rfl
@[simp] theorem storeAt_gdtr (s : State) (pas : List Nat) (v : Dword) : (s.storeAt pas v).gdtr = s.gdtr := rfl
@[simp] theorem storeAt_idtr (s : State) (pas : List Nat) (v : Dword) : (s.storeAt pas v).idtr = s.idtr := rfl
@[simp] theorem storeAt_ldtr (s : State) (pas : List Nat) (v : Dword) : (s.storeAt pas v).ldtr = s.ldtr := rfl
@[simp] theorem storeAt_tr (s : State) (pas : List Nat) (v : Dword) : (s.storeAt pas v).tr = s.tr := rfl
@[simp] theorem storeAt_nmiMasked (s : State) (pas : List Nat) (v : Dword) : (s.storeAt pas v).nmiMasked = s.nmiMasked := rfl
@[simp] theorem storeAt_intShadow (s : State) (pas : List Nat) (v : Dword) : (s.storeAt pas v).intShadow = s.intShadow := rfl
@[simp] theorem storeAt_ssShadow (s : State) (pas : List Nat) (v : Dword) : (s.storeAt pas v).ssShadow = s.ssShadow := rfl
@[simp] theorem storeAt_trapPending (s : State) (pas : List Nat) (v : Dword) : (s.storeAt pas v).trapPending = s.trapPending := rfl
@[simp] theorem storeAt_nmiPending (s : State) (pas : List Nat) (v : Dword) : (s.storeAt pas v).nmiPending = s.nmiPending := rfl
@[simp] theorem storeAt_fpPending (s : State) (pas : List Nat) (v : Dword) : (s.storeAt pas v).fpPending = s.fpPending := rfl
@[simp] theorem storeAt_irqs (s : State) (pas : List Nat) (v : Dword) : (s.storeAt pas v).irqs = s.irqs := rfl
@[simp] theorem storeAt_extEvents (s : State) (pas : List Nat) (v : Dword) : (s.storeAt pas v).extEvents = s.extEvents := rfl
@[simp] theorem storeAt_halted (s : State) (pas : List Nat) (v : Dword) : (s.storeAt pas v).halted = s.halted := rfl
@[simp] theorem storeAt_mem (s : State) (pas : List Nat) (v : Dword) : (s.storeAt pas v).mem = s.mem.writeAll pas v := rfl
@[simp] theorem storeAt_pageMap (s : State) (pas : List Nat) (v : Dword) : (s.storeAt pas v).pageMap = s.pageMap := rfl
@[simp] theorem storeAt_descriptors (s : State) (pas : List Nat) (v : Dword) : (s.storeAt pas v).descriptors = s.descriptors := rfl
@[simp] theorem storeAt_written (s : State) (pas : List Nat) (v : Dword) : (s.storeAt pas v).written = pas ++ s.written := rfl
@[simp] theorem storeAt_ioTrace (s : State) (pas : List Nat) (v : Dword) : (s.storeAt pas v).ioTrace = s.ioTrace := rfl
@[simp] theorem storeAt_draws (s : State) (pas : List Nat) (v : Dword) : (s.storeAt pas v).draws = s.draws := rfl
@[simp] theorem storeAt_ilen (s : State) (pas : List Nat) (v : Dword) : (s.storeAt pas v).ilen = s.ilen := rfl
@[simp] theorem storeAt_pfx (s : State) (pas : List Nat) (v : Dword) : (s.storeAt pas v).pfx = s.pfx := rfl
@[simp] theorem storeAt_iterating (s : State) (pas : List Nat) (v : Dword) : (s.storeAt pas v).iterating = s.iterating := rfl

/-! `State.ioReadDone`. -/

@[simp] theorem ioReadDone_regs (s : State) (port : Word) (n : Nat) : (s.ioReadDone port n).regs = s.regs := rfl
@[simp] theorem ioReadDone_segs (s : State) (port : Word) (n : Nat) : (s.ioReadDone port n).segs = s.segs := rfl
@[simp] theorem ioReadDone_eip (s : State) (port : Word) (n : Nat) : (s.ioReadDone port n).eip = s.eip := rfl
@[simp] theorem ioReadDone_eflags (s : State) (port : Word) (n : Nat) : (s.ioReadDone port n).eflags = s.eflags := rfl
@[simp] theorem ioReadDone_cpl (s : State) (port : Word) (n : Nat) : (s.ioReadDone port n).cpl = s.cpl := rfl
@[simp] theorem ioReadDone_ctrl (s : State) (port : Word) (n : Nat) : (s.ioReadDone port n).ctrl = s.ctrl := rfl
@[simp] theorem ioReadDone_dbg (s : State) (port : Word) (n : Nat) : (s.ioReadDone port n).dbg = s.dbg := rfl
@[simp] theorem ioReadDone_tst (s : State) (port : Word) (n : Nat) : (s.ioReadDone port n).tst = s.tst := rfl
@[simp] theorem ioReadDone_gdtr (s : State) (port : Word) (n : Nat) : (s.ioReadDone port n).gdtr = s.gdtr := rfl
@[simp] theorem ioReadDone_idtr (s : State) (port : Word) (n : Nat) : (s.ioReadDone port n).idtr = s.idtr := rfl
@[simp] theorem ioReadDone_ldtr (s : State) (port : Word) (n : Nat) : (s.ioReadDone port n).ldtr = s.ldtr := rfl
@[simp] theorem ioReadDone_tr (s : State) (port : Word) (n : Nat) : (s.ioReadDone port n).tr = s.tr := rfl
@[simp] theorem ioReadDone_nmiMasked (s : State) (port : Word) (n : Nat) : (s.ioReadDone port n).nmiMasked = s.nmiMasked := rfl
@[simp] theorem ioReadDone_intShadow (s : State) (port : Word) (n : Nat) : (s.ioReadDone port n).intShadow = s.intShadow := rfl
@[simp] theorem ioReadDone_ssShadow (s : State) (port : Word) (n : Nat) : (s.ioReadDone port n).ssShadow = s.ssShadow := rfl
@[simp] theorem ioReadDone_trapPending (s : State) (port : Word) (n : Nat) : (s.ioReadDone port n).trapPending = s.trapPending := rfl
@[simp] theorem ioReadDone_nmiPending (s : State) (port : Word) (n : Nat) : (s.ioReadDone port n).nmiPending = s.nmiPending := rfl
@[simp] theorem ioReadDone_fpPending (s : State) (port : Word) (n : Nat) : (s.ioReadDone port n).fpPending = s.fpPending := rfl
@[simp] theorem ioReadDone_irqs (s : State) (port : Word) (n : Nat) : (s.ioReadDone port n).irqs = s.irqs := rfl
@[simp] theorem ioReadDone_extEvents (s : State) (port : Word) (n : Nat) : (s.ioReadDone port n).extEvents = s.extEvents := rfl
@[simp] theorem ioReadDone_halted (s : State) (port : Word) (n : Nat) : (s.ioReadDone port n).halted = s.halted := rfl
@[simp] theorem ioReadDone_mem (s : State) (port : Word) (n : Nat) : (s.ioReadDone port n).mem = s.mem := rfl
@[simp] theorem ioReadDone_pageMap (s : State) (port : Word) (n : Nat) : (s.ioReadDone port n).pageMap = s.pageMap := rfl
@[simp] theorem ioReadDone_descriptors (s : State) (port : Word) (n : Nat) : (s.ioReadDone port n).descriptors = s.descriptors := rfl
@[simp] theorem ioReadDone_written (s : State) (port : Word) (n : Nat) : (s.ioReadDone port n).written = s.written := rfl
@[simp] theorem ioReadDone_ioTrace (s : State) (port : Word) (n : Nat) : (s.ioReadDone port n).ioTrace = .input port n (s.ioValue port n) :: s.ioTrace := rfl
@[simp] theorem ioReadDone_draws (s : State) (port : Word) (n : Nat) : (s.ioReadDone port n).draws = s.draws + 1 := rfl
@[simp] theorem ioReadDone_ilen (s : State) (port : Word) (n : Nat) : (s.ioReadDone port n).ilen = s.ilen := rfl
@[simp] theorem ioReadDone_pfx (s : State) (port : Word) (n : Nat) : (s.ioReadDone port n).pfx = s.pfx := rfl
@[simp] theorem ioReadDone_iterating (s : State) (port : Word) (n : Nat) : (s.ioReadDone port n).iterating = s.iterating := rfl

/-! `State.ioWrite`. -/

@[simp] theorem ioWrite_regs (s : State) (port : Word) (n : Nat) (v : Dword) : (s.ioWrite port n v).regs = s.regs := rfl
@[simp] theorem ioWrite_segs (s : State) (port : Word) (n : Nat) (v : Dword) : (s.ioWrite port n v).segs = s.segs := rfl
@[simp] theorem ioWrite_eip (s : State) (port : Word) (n : Nat) (v : Dword) : (s.ioWrite port n v).eip = s.eip := rfl
@[simp] theorem ioWrite_eflags (s : State) (port : Word) (n : Nat) (v : Dword) : (s.ioWrite port n v).eflags = s.eflags := rfl
@[simp] theorem ioWrite_cpl (s : State) (port : Word) (n : Nat) (v : Dword) : (s.ioWrite port n v).cpl = s.cpl := rfl
@[simp] theorem ioWrite_ctrl (s : State) (port : Word) (n : Nat) (v : Dword) : (s.ioWrite port n v).ctrl = s.ctrl := rfl
@[simp] theorem ioWrite_dbg (s : State) (port : Word) (n : Nat) (v : Dword) : (s.ioWrite port n v).dbg = s.dbg := rfl
@[simp] theorem ioWrite_tst (s : State) (port : Word) (n : Nat) (v : Dword) : (s.ioWrite port n v).tst = s.tst := rfl
@[simp] theorem ioWrite_gdtr (s : State) (port : Word) (n : Nat) (v : Dword) : (s.ioWrite port n v).gdtr = s.gdtr := rfl
@[simp] theorem ioWrite_idtr (s : State) (port : Word) (n : Nat) (v : Dword) : (s.ioWrite port n v).idtr = s.idtr := rfl
@[simp] theorem ioWrite_ldtr (s : State) (port : Word) (n : Nat) (v : Dword) : (s.ioWrite port n v).ldtr = s.ldtr := rfl
@[simp] theorem ioWrite_tr (s : State) (port : Word) (n : Nat) (v : Dword) : (s.ioWrite port n v).tr = s.tr := rfl
@[simp] theorem ioWrite_nmiMasked (s : State) (port : Word) (n : Nat) (v : Dword) : (s.ioWrite port n v).nmiMasked = s.nmiMasked := rfl
@[simp] theorem ioWrite_intShadow (s : State) (port : Word) (n : Nat) (v : Dword) : (s.ioWrite port n v).intShadow = s.intShadow := rfl
@[simp] theorem ioWrite_ssShadow (s : State) (port : Word) (n : Nat) (v : Dword) : (s.ioWrite port n v).ssShadow = s.ssShadow := rfl
@[simp] theorem ioWrite_trapPending (s : State) (port : Word) (n : Nat) (v : Dword) : (s.ioWrite port n v).trapPending = s.trapPending := rfl
@[simp] theorem ioWrite_nmiPending (s : State) (port : Word) (n : Nat) (v : Dword) : (s.ioWrite port n v).nmiPending = s.nmiPending := rfl
@[simp] theorem ioWrite_fpPending (s : State) (port : Word) (n : Nat) (v : Dword) : (s.ioWrite port n v).fpPending = s.fpPending := rfl
@[simp] theorem ioWrite_irqs (s : State) (port : Word) (n : Nat) (v : Dword) : (s.ioWrite port n v).irqs = s.irqs := rfl
@[simp] theorem ioWrite_extEvents (s : State) (port : Word) (n : Nat) (v : Dword) : (s.ioWrite port n v).extEvents = s.extEvents := rfl
@[simp] theorem ioWrite_halted (s : State) (port : Word) (n : Nat) (v : Dword) : (s.ioWrite port n v).halted = s.halted := rfl
@[simp] theorem ioWrite_mem (s : State) (port : Word) (n : Nat) (v : Dword) : (s.ioWrite port n v).mem = s.mem := rfl
@[simp] theorem ioWrite_pageMap (s : State) (port : Word) (n : Nat) (v : Dword) : (s.ioWrite port n v).pageMap = s.pageMap := rfl
@[simp] theorem ioWrite_descriptors (s : State) (port : Word) (n : Nat) (v : Dword) : (s.ioWrite port n v).descriptors = s.descriptors := rfl
@[simp] theorem ioWrite_written (s : State) (port : Word) (n : Nat) (v : Dword) : (s.ioWrite port n v).written = s.written := rfl
@[simp] theorem ioWrite_ioTrace (s : State) (port : Word) (n : Nat) (v : Dword) : (s.ioWrite port n v).ioTrace = .output port n (lowBytes n v) :: s.ioTrace := rfl
@[simp] theorem ioWrite_draws (s : State) (port : Word) (n : Nat) (v : Dword) : (s.ioWrite port n v).draws = s.draws := rfl
@[simp] theorem ioWrite_ilen (s : State) (port : Word) (n : Nat) (v : Dword) : (s.ioWrite port n v).ilen = s.ilen := rfl
@[simp] theorem ioWrite_pfx (s : State) (port : Word) (n : Nat) (v : Dword) : (s.ioWrite port n v).pfx = s.pfx := rfl
@[simp] theorem ioWrite_iterating (s : State) (port : Word) (n : Nat) (v : Dword) : (s.ioWrite port n v).iterating = s.iterating := rfl

/-! `State.transferred`. -/

@[simp] theorem transferred_regs (s : State) : (s.transferred).regs = s.regs := rfl
@[simp] theorem transferred_segs (s : State) : (s.transferred).segs = s.segs := rfl
@[simp] theorem transferred_eip (s : State) : (s.transferred).eip = s.eip := rfl
@[simp] theorem transferred_eflags (s : State) : (s.transferred).eflags = s.eflags := rfl
@[simp] theorem transferred_cpl (s : State) : (s.transferred).cpl = s.cpl := rfl
@[simp] theorem transferred_ctrl (s : State) : (s.transferred).ctrl = s.ctrl := rfl
@[simp] theorem transferred_dbg (s : State) : (s.transferred).dbg = s.dbg := rfl
@[simp] theorem transferred_tst (s : State) : (s.transferred).tst = s.tst := rfl
@[simp] theorem transferred_gdtr (s : State) : (s.transferred).gdtr = s.gdtr := rfl
@[simp] theorem transferred_idtr (s : State) : (s.transferred).idtr = s.idtr := rfl
@[simp] theorem transferred_ldtr (s : State) : (s.transferred).ldtr = s.ldtr := rfl
@[simp] theorem transferred_tr (s : State) : (s.transferred).tr = s.tr := rfl
@[simp] theorem transferred_nmiMasked (s : State) : (s.transferred).nmiMasked = s.nmiMasked := rfl
@[simp] theorem transferred_intShadow (s : State) : (s.transferred).intShadow = s.intShadow := rfl
@[simp] theorem transferred_ssShadow (s : State) : (s.transferred).ssShadow = s.ssShadow := rfl
@[simp] theorem transferred_trapPending (s : State) : (s.transferred).trapPending = s.trapPending := rfl
@[simp] theorem transferred_nmiPending (s : State) : (s.transferred).nmiPending = s.nmiPending := rfl
@[simp] theorem transferred_fpPending (s : State) : (s.transferred).fpPending = s.fpPending := rfl
@[simp] theorem transferred_irqs (s : State) : (s.transferred).irqs = s.irqs := rfl
@[simp] theorem transferred_extEvents (s : State) : (s.transferred).extEvents = s.extEvents := rfl
@[simp] theorem transferred_halted (s : State) : (s.transferred).halted = s.halted := rfl
@[simp] theorem transferred_mem (s : State) : (s.transferred).mem = s.mem := rfl
@[simp] theorem transferred_pageMap (s : State) : (s.transferred).pageMap = s.pageMap := rfl
@[simp] theorem transferred_descriptors (s : State) : (s.transferred).descriptors = s.descriptors := rfl
@[simp] theorem transferred_written (s : State) : (s.transferred).written = [] := rfl
@[simp] theorem transferred_ioTrace (s : State) : (s.transferred).ioTrace = s.ioTrace := rfl
@[simp] theorem transferred_draws (s : State) : (s.transferred).draws = s.draws := rfl
@[simp] theorem transferred_ilen (s : State) : (s.transferred).ilen = s.ilen := rfl
@[simp] theorem transferred_pfx (s : State) : (s.transferred).pfx = s.pfx := rfl
@[simp] theorem transferred_iterating (s : State) : (s.transferred).iterating = s.iterating := rfl

/-! `State.divided`. -/

@[simp] theorem divided_regs (s : State) : (s.divided).regs = s.regs := rfl
@[simp] theorem divided_segs (s : State) : (s.divided).segs = s.segs := rfl
@[simp] theorem divided_eip (s : State) : (s.divided).eip = s.eip := rfl
@[simp] theorem divided_eflags (s : State) : (s.divided).eflags = divideFlags s.eflags s.draws := rfl
@[simp] theorem divided_cpl (s : State) : (s.divided).cpl = s.cpl := rfl
@[simp] theorem divided_ctrl (s : State) : (s.divided).ctrl = s.ctrl := rfl
@[simp] theorem divided_dbg (s : State) : (s.divided).dbg = s.dbg := rfl
@[simp] theorem divided_tst (s : State) : (s.divided).tst = s.tst := rfl
@[simp] theorem divided_gdtr (s : State) : (s.divided).gdtr = s.gdtr := rfl
@[simp] theorem divided_idtr (s : State) : (s.divided).idtr = s.idtr := rfl
@[simp] theorem divided_ldtr (s : State) : (s.divided).ldtr = s.ldtr := rfl
@[simp] theorem divided_tr (s : State) : (s.divided).tr = s.tr := rfl
@[simp] theorem divided_nmiMasked (s : State) : (s.divided).nmiMasked = s.nmiMasked := rfl
@[simp] theorem divided_intShadow (s : State) : (s.divided).intShadow = s.intShadow := rfl
@[simp] theorem divided_ssShadow (s : State) : (s.divided).ssShadow = s.ssShadow := rfl
@[simp] theorem divided_trapPending (s : State) : (s.divided).trapPending = s.trapPending := rfl
@[simp] theorem divided_nmiPending (s : State) : (s.divided).nmiPending = s.nmiPending := rfl
@[simp] theorem divided_fpPending (s : State) : (s.divided).fpPending = s.fpPending := rfl
@[simp] theorem divided_irqs (s : State) : (s.divided).irqs = s.irqs := rfl
@[simp] theorem divided_extEvents (s : State) : (s.divided).extEvents = s.extEvents := rfl
@[simp] theorem divided_halted (s : State) : (s.divided).halted = s.halted := rfl
@[simp] theorem divided_mem (s : State) : (s.divided).mem = s.mem := rfl
@[simp] theorem divided_pageMap (s : State) : (s.divided).pageMap = s.pageMap := rfl
@[simp] theorem divided_descriptors (s : State) : (s.divided).descriptors = s.descriptors := rfl
@[simp] theorem divided_written (s : State) : (s.divided).written = s.written := rfl
@[simp] theorem divided_ioTrace (s : State) : (s.divided).ioTrace = s.ioTrace := rfl
@[simp] theorem divided_draws (s : State) : (s.divided).draws = s.draws + divideDraws := rfl
@[simp] theorem divided_ilen (s : State) : (s.divided).ilen = s.ilen := rfl
@[simp] theorem divided_pfx (s : State) : (s.divided).pfx = s.pfx := rfl
@[simp] theorem divided_iterating (s : State) : (s.divided).iterating = s.iterating := rfl

/-! `State.shifted`. -/

@[simp] theorem shifted_regs {n : Nat} (s t : State) (op : ShiftOp) (d : BitVec n) (c : Nat) : (s.shifted t op d c).regs = t.regs := rfl
@[simp] theorem shifted_segs {n : Nat} (s t : State) (op : ShiftOp) (d : BitVec n) (c : Nat) : (s.shifted t op d c).segs = t.segs := rfl
@[simp] theorem shifted_eip {n : Nat} (s t : State) (op : ShiftOp) (d : BitVec n) (c : Nat) : (s.shifted t op d c).eip = t.eip := rfl
@[simp] theorem shifted_eflags {n : Nat} (s t : State) (op : ShiftOp) (d : BitVec n) (c : Nat) : (s.shifted t op d c).eflags = shiftFlags op s.eflags d c s.draws := rfl
@[simp] theorem shifted_cpl {n : Nat} (s t : State) (op : ShiftOp) (d : BitVec n) (c : Nat) : (s.shifted t op d c).cpl = t.cpl := rfl
@[simp] theorem shifted_ctrl {n : Nat} (s t : State) (op : ShiftOp) (d : BitVec n) (c : Nat) : (s.shifted t op d c).ctrl = t.ctrl := rfl
@[simp] theorem shifted_dbg {n : Nat} (s t : State) (op : ShiftOp) (d : BitVec n) (c : Nat) : (s.shifted t op d c).dbg = t.dbg := rfl
@[simp] theorem shifted_tst {n : Nat} (s t : State) (op : ShiftOp) (d : BitVec n) (c : Nat) : (s.shifted t op d c).tst = t.tst := rfl
@[simp] theorem shifted_gdtr {n : Nat} (s t : State) (op : ShiftOp) (d : BitVec n) (c : Nat) : (s.shifted t op d c).gdtr = t.gdtr := rfl
@[simp] theorem shifted_idtr {n : Nat} (s t : State) (op : ShiftOp) (d : BitVec n) (c : Nat) : (s.shifted t op d c).idtr = t.idtr := rfl
@[simp] theorem shifted_ldtr {n : Nat} (s t : State) (op : ShiftOp) (d : BitVec n) (c : Nat) : (s.shifted t op d c).ldtr = t.ldtr := rfl
@[simp] theorem shifted_tr {n : Nat} (s t : State) (op : ShiftOp) (d : BitVec n) (c : Nat) : (s.shifted t op d c).tr = t.tr := rfl
@[simp] theorem shifted_nmiMasked {n : Nat} (s t : State) (op : ShiftOp) (d : BitVec n) (c : Nat) : (s.shifted t op d c).nmiMasked = t.nmiMasked := rfl
@[simp] theorem shifted_intShadow {n : Nat} (s t : State) (op : ShiftOp) (d : BitVec n) (c : Nat) : (s.shifted t op d c).intShadow = t.intShadow := rfl
@[simp] theorem shifted_ssShadow {n : Nat} (s t : State) (op : ShiftOp) (d : BitVec n) (c : Nat) : (s.shifted t op d c).ssShadow = t.ssShadow := rfl
@[simp] theorem shifted_trapPending {n : Nat} (s t : State) (op : ShiftOp) (d : BitVec n) (c : Nat) : (s.shifted t op d c).trapPending = t.trapPending := rfl
@[simp] theorem shifted_nmiPending {n : Nat} (s t : State) (op : ShiftOp) (d : BitVec n) (c : Nat) : (s.shifted t op d c).nmiPending = t.nmiPending := rfl
@[simp] theorem shifted_fpPending {n : Nat} (s t : State) (op : ShiftOp) (d : BitVec n) (c : Nat) : (s.shifted t op d c).fpPending = t.fpPending := rfl
@[simp] theorem shifted_irqs {n : Nat} (s t : State) (op : ShiftOp) (d : BitVec n) (c : Nat) : (s.shifted t op d c).irqs = t.irqs := rfl
@[simp] theorem shifted_extEvents {n : Nat} (s t : State) (op : ShiftOp) (d : BitVec n) (c : Nat) : (s.shifted t op d c).extEvents = t.extEvents := rfl
@[simp] theorem shifted_halted {n : Nat} (s t : State) (op : ShiftOp) (d : BitVec n) (c : Nat) : (s.shifted t op d c).halted = t.halted := rfl
@[simp] theorem shifted_mem {n : Nat} (s t : State) (op : ShiftOp) (d : BitVec n) (c : Nat) : (s.shifted t op d c).mem = t.mem := rfl
@[simp] theorem shifted_pageMap {n : Nat} (s t : State) (op : ShiftOp) (d : BitVec n) (c : Nat) : (s.shifted t op d c).pageMap = t.pageMap := rfl
@[simp] theorem shifted_descriptors {n : Nat} (s t : State) (op : ShiftOp) (d : BitVec n) (c : Nat) : (s.shifted t op d c).descriptors = t.descriptors := rfl
@[simp] theorem shifted_written {n : Nat} (s t : State) (op : ShiftOp) (d : BitVec n) (c : Nat) : (s.shifted t op d c).written = t.written := rfl
@[simp] theorem shifted_ioTrace {n : Nat} (s t : State) (op : ShiftOp) (d : BitVec n) (c : Nat) : (s.shifted t op d c).ioTrace = t.ioTrace := rfl
@[simp] theorem shifted_draws {n : Nat} (s t : State) (op : ShiftOp) (d : BitVec n) (c : Nat) : (s.shifted t op d c).draws = s.draws + shiftDraws := rfl
@[simp] theorem shifted_ilen {n : Nat} (s t : State) (op : ShiftOp) (d : BitVec n) (c : Nat) : (s.shifted t op d c).ilen = t.ilen := rfl
@[simp] theorem shifted_pfx {n : Nat} (s t : State) (op : ShiftOp) (d : BitVec n) (c : Nat) : (s.shifted t op d c).pfx = t.pfx := rfl
@[simp] theorem shifted_iterating {n : Nat} (s t : State) (op : ShiftOp) (d : BitVec n) (c : Nat) : (s.shifted t op d c).iterating = t.iterating := rfl

/-! `retireAt`. -/

@[simp] theorem retireAt_regs (s t : State) (eip : Dword) : (retireAt s t eip).regs = t.regs := rfl
@[simp] theorem retireAt_segs (s t : State) (eip : Dword) : (retireAt s t eip).segs = t.segs := rfl
@[simp] theorem retireAt_eip (s t : State) (eip : Dword) : (retireAt s t eip).eip = eip := rfl
@[simp] theorem retireAt_eflags (s t : State) (eip : Dword) : (retireAt s t eip).eflags = t.eflags := rfl
@[simp] theorem retireAt_cpl (s t : State) (eip : Dword) : (retireAt s t eip).cpl = t.cpl := rfl
@[simp] theorem retireAt_ctrl (s t : State) (eip : Dword) : (retireAt s t eip).ctrl = t.ctrl := rfl
@[simp] theorem retireAt_dbg (s t : State) (eip : Dword) : (retireAt s t eip).dbg = t.dbg := rfl
@[simp] theorem retireAt_tst (s t : State) (eip : Dword) : (retireAt s t eip).tst = t.tst := rfl
@[simp] theorem retireAt_gdtr (s t : State) (eip : Dword) : (retireAt s t eip).gdtr = t.gdtr := rfl
@[simp] theorem retireAt_idtr (s t : State) (eip : Dword) : (retireAt s t eip).idtr = t.idtr := rfl
@[simp] theorem retireAt_ldtr (s t : State) (eip : Dword) : (retireAt s t eip).ldtr = t.ldtr := rfl
@[simp] theorem retireAt_tr (s t : State) (eip : Dword) : (retireAt s t eip).tr = t.tr := rfl
@[simp] theorem retireAt_nmiMasked (s t : State) (eip : Dword) : (retireAt s t eip).nmiMasked = t.nmiMasked := rfl
@[simp] theorem retireAt_intShadow (s t : State) (eip : Dword) : (retireAt s t eip).intShadow = t.intShadow := rfl
@[simp] theorem retireAt_ssShadow (s t : State) (eip : Dword) : (retireAt s t eip).ssShadow = t.ssShadow := rfl
@[simp] theorem retireAt_trapPending (s t : State) (eip : Dword) : (retireAt s t eip).trapPending = (s.trapPending || s.eflags.tf) := rfl
@[simp] theorem retireAt_nmiPending (s t : State) (eip : Dword) : (retireAt s t eip).nmiPending = t.nmiPending := rfl
@[simp] theorem retireAt_fpPending (s t : State) (eip : Dword) : (retireAt s t eip).fpPending = t.fpPending := rfl
@[simp] theorem retireAt_irqs (s t : State) (eip : Dword) : (retireAt s t eip).irqs = t.irqs := rfl
@[simp] theorem retireAt_extEvents (s t : State) (eip : Dword) : (retireAt s t eip).extEvents = t.extEvents := rfl
@[simp] theorem retireAt_halted (s t : State) (eip : Dword) : (retireAt s t eip).halted = t.halted := rfl
@[simp] theorem retireAt_mem (s t : State) (eip : Dword) : (retireAt s t eip).mem = t.mem := rfl
@[simp] theorem retireAt_pageMap (s t : State) (eip : Dword) : (retireAt s t eip).pageMap = t.pageMap := rfl
@[simp] theorem retireAt_descriptors (s t : State) (eip : Dword) : (retireAt s t eip).descriptors = t.descriptors := rfl
@[simp] theorem retireAt_written (s t : State) (eip : Dword) : (retireAt s t eip).written = t.written := rfl
@[simp] theorem retireAt_ioTrace (s t : State) (eip : Dword) : (retireAt s t eip).ioTrace = t.ioTrace := rfl
@[simp] theorem retireAt_draws (s t : State) (eip : Dword) : (retireAt s t eip).draws = t.draws := rfl
@[simp] theorem retireAt_ilen (s t : State) (eip : Dword) : (retireAt s t eip).ilen = 0 := rfl
@[simp] theorem retireAt_pfx (s t : State) (eip : Dword) : (retireAt s t eip).pfx = Pfx.none := rfl
@[simp] theorem retireAt_iterating (s t : State) (eip : Dword) : (retireAt s t eip).iterating = none := rfl

/-! `completed`. -/

@[simp] theorem completed_regs (s t : State) : (completed s t).regs = t.regs := rfl
@[simp] theorem completed_segs (s t : State) : (completed s t).segs = t.segs := rfl
@[simp] theorem completed_eip (s t : State) : (completed s t).eip = s.eip + BitVec.ofNat 32 s.ilen := rfl
@[simp] theorem completed_eflags (s t : State) : (completed s t).eflags = t.eflags := rfl
@[simp] theorem completed_cpl (s t : State) : (completed s t).cpl = t.cpl := rfl
@[simp] theorem completed_ctrl (s t : State) : (completed s t).ctrl = t.ctrl := rfl
@[simp] theorem completed_dbg (s t : State) : (completed s t).dbg = t.dbg := rfl
@[simp] theorem completed_tst (s t : State) : (completed s t).tst = t.tst := rfl
@[simp] theorem completed_gdtr (s t : State) : (completed s t).gdtr = t.gdtr := rfl
@[simp] theorem completed_idtr (s t : State) : (completed s t).idtr = t.idtr := rfl
@[simp] theorem completed_ldtr (s t : State) : (completed s t).ldtr = t.ldtr := rfl
@[simp] theorem completed_tr (s t : State) : (completed s t).tr = t.tr := rfl
@[simp] theorem completed_nmiMasked (s t : State) : (completed s t).nmiMasked = t.nmiMasked := rfl
@[simp] theorem completed_intShadow (s t : State) : (completed s t).intShadow = false := rfl
@[simp] theorem completed_ssShadow (s t : State) : (completed s t).ssShadow = false := rfl
@[simp] theorem completed_trapPending (s t : State) : (completed s t).trapPending = (s.trapPending || s.eflags.tf) := rfl
@[simp] theorem completed_nmiPending (s t : State) : (completed s t).nmiPending = t.nmiPending := rfl
@[simp] theorem completed_fpPending (s t : State) : (completed s t).fpPending = t.fpPending := rfl
@[simp] theorem completed_irqs (s t : State) : (completed s t).irqs = t.irqs := rfl
@[simp] theorem completed_extEvents (s t : State) : (completed s t).extEvents = t.extEvents := rfl
@[simp] theorem completed_halted (s t : State) : (completed s t).halted = t.halted := rfl
@[simp] theorem completed_mem (s t : State) : (completed s t).mem = t.mem := rfl
@[simp] theorem completed_pageMap (s t : State) : (completed s t).pageMap = t.pageMap := rfl
@[simp] theorem completed_descriptors (s t : State) : (completed s t).descriptors = t.descriptors := rfl
@[simp] theorem completed_written (s t : State) : (completed s t).written = t.written := rfl
@[simp] theorem completed_ioTrace (s t : State) : (completed s t).ioTrace = t.ioTrace := rfl
@[simp] theorem completed_draws (s t : State) : (completed s t).draws = t.draws := rfl
@[simp] theorem completed_ilen (s t : State) : (completed s t).ilen = 0 := rfl
@[simp] theorem completed_pfx (s t : State) : (completed s t).pfx = Pfx.none := rfl
@[simp] theorem completed_iterating (s t : State) : (completed s t).iterating = none := rfl

/-! The register file and the segment registers: what is read after a write. -/

@[simp] theorem regs_get_set_same (g : Regs) (r : Reg) (v : Dword) : (g.set r v).get r = v := by cases r <;> rfl

theorem regs_get_set_other (g : Regs) {r q : Reg} (v : Dword) (h : q ≠ r) : (g.set r v).get q = g.get q := by
  cases r <;> cases q <;> first | rfl | exact absurd rfl h

@[simp] theorem segs_get_set_same (g : Segs) (r : SReg) (v : SegReg) : (g.set r v).get r = v := by cases r <;> rfl

theorem segs_get_set_other (g : Segs) {r q : SReg} (v : SegReg) (h : q ≠ r) : (g.set r v).get q = g.get q := by
  cases r <;> cases q <;> first | rfl | exact absurd rfl h

@[simp] theorem setReg_reg_same (s : State) (r : Reg) (v : Dword) : (s.setReg r v).reg r = v :=
  regs_get_set_same s.regs r v

theorem setReg_reg_other (s : State) {r q : Reg} (v : Dword) (h : q ≠ r) : (s.setReg r v).reg q = s.reg q :=
  regs_get_set_other s.regs v h

@[simp] theorem setSeg_seg_same (s : State) (r : SReg) (v : SegReg) : (s.setSeg r v).seg r = v :=
  segs_get_set_same s.segs r v

theorem setSeg_seg_other (s : State) {r q : SReg} (v : SegReg) (h : q ≠ r) : (s.setSeg r v).seg q = s.seg q :=
  segs_get_set_other s.segs v h

/-! A register written at the operand size. -/

@[simp] theorem setRegW_segs (s : State) (w : Bool) (r : Reg) (v : Dword) : (s.setRegW w r v).segs = s.segs := by
  cases w <;> rfl
@[simp] theorem setRegW_eip (s : State) (w : Bool) (r : Reg) (v : Dword) : (s.setRegW w r v).eip = s.eip := by
  cases w <;> rfl
@[simp] theorem setRegW_eflags (s : State) (w : Bool) (r : Reg) (v : Dword) : (s.setRegW w r v).eflags = s.eflags := by
  cases w <;> rfl
@[simp] theorem setRegW_cpl (s : State) (w : Bool) (r : Reg) (v : Dword) : (s.setRegW w r v).cpl = s.cpl := by
  cases w <;> rfl
@[simp] theorem setRegW_ctrl (s : State) (w : Bool) (r : Reg) (v : Dword) : (s.setRegW w r v).ctrl = s.ctrl := by
  cases w <;> rfl
@[simp] theorem setRegW_dbg (s : State) (w : Bool) (r : Reg) (v : Dword) : (s.setRegW w r v).dbg = s.dbg := by
  cases w <;> rfl
@[simp] theorem setRegW_tst (s : State) (w : Bool) (r : Reg) (v : Dword) : (s.setRegW w r v).tst = s.tst := by
  cases w <;> rfl
@[simp] theorem setRegW_gdtr (s : State) (w : Bool) (r : Reg) (v : Dword) : (s.setRegW w r v).gdtr = s.gdtr := by
  cases w <;> rfl
@[simp] theorem setRegW_idtr (s : State) (w : Bool) (r : Reg) (v : Dword) : (s.setRegW w r v).idtr = s.idtr := by
  cases w <;> rfl
@[simp] theorem setRegW_ldtr (s : State) (w : Bool) (r : Reg) (v : Dword) : (s.setRegW w r v).ldtr = s.ldtr := by
  cases w <;> rfl
@[simp] theorem setRegW_tr (s : State) (w : Bool) (r : Reg) (v : Dword) : (s.setRegW w r v).tr = s.tr := by
  cases w <;> rfl
@[simp] theorem setRegW_nmiMasked (s : State) (w : Bool) (r : Reg) (v : Dword) : (s.setRegW w r v).nmiMasked = s.nmiMasked := by
  cases w <;> rfl
@[simp] theorem setRegW_intShadow (s : State) (w : Bool) (r : Reg) (v : Dword) : (s.setRegW w r v).intShadow = s.intShadow := by
  cases w <;> rfl
@[simp] theorem setRegW_ssShadow (s : State) (w : Bool) (r : Reg) (v : Dword) : (s.setRegW w r v).ssShadow = s.ssShadow := by
  cases w <;> rfl
@[simp] theorem setRegW_trapPending (s : State) (w : Bool) (r : Reg) (v : Dword) : (s.setRegW w r v).trapPending = s.trapPending := by
  cases w <;> rfl
@[simp] theorem setRegW_nmiPending (s : State) (w : Bool) (r : Reg) (v : Dword) : (s.setRegW w r v).nmiPending = s.nmiPending := by
  cases w <;> rfl
@[simp] theorem setRegW_fpPending (s : State) (w : Bool) (r : Reg) (v : Dword) : (s.setRegW w r v).fpPending = s.fpPending := by
  cases w <;> rfl
@[simp] theorem setRegW_irqs (s : State) (w : Bool) (r : Reg) (v : Dword) : (s.setRegW w r v).irqs = s.irqs := by
  cases w <;> rfl
@[simp] theorem setRegW_extEvents (s : State) (w : Bool) (r : Reg) (v : Dword) : (s.setRegW w r v).extEvents = s.extEvents := by
  cases w <;> rfl
@[simp] theorem setRegW_halted (s : State) (w : Bool) (r : Reg) (v : Dword) : (s.setRegW w r v).halted = s.halted := by
  cases w <;> rfl
@[simp] theorem setRegW_mem (s : State) (w : Bool) (r : Reg) (v : Dword) : (s.setRegW w r v).mem = s.mem := by
  cases w <;> rfl
@[simp] theorem setRegW_pageMap (s : State) (w : Bool) (r : Reg) (v : Dword) : (s.setRegW w r v).pageMap = s.pageMap := by
  cases w <;> rfl
@[simp] theorem setRegW_descriptors (s : State) (w : Bool) (r : Reg) (v : Dword) : (s.setRegW w r v).descriptors = s.descriptors := by
  cases w <;> rfl
@[simp] theorem setRegW_written (s : State) (w : Bool) (r : Reg) (v : Dword) : (s.setRegW w r v).written = s.written := by
  cases w <;> rfl
@[simp] theorem setRegW_ioTrace (s : State) (w : Bool) (r : Reg) (v : Dword) : (s.setRegW w r v).ioTrace = s.ioTrace := by
  cases w <;> rfl
@[simp] theorem setRegW_draws (s : State) (w : Bool) (r : Reg) (v : Dword) : (s.setRegW w r v).draws = s.draws := by
  cases w <;> rfl
@[simp] theorem setRegW_ilen (s : State) (w : Bool) (r : Reg) (v : Dword) : (s.setRegW w r v).ilen = s.ilen := by
  cases w <;> rfl
@[simp] theorem setRegW_pfx (s : State) (w : Bool) (r : Reg) (v : Dword) : (s.setRegW w r v).pfx = s.pfx := by
  cases w <;> rfl
@[simp] theorem setRegW_iterating (s : State) (w : Bool) (r : Reg) (v : Dword) : (s.setRegW w r v).iterating = s.iterating := by
  cases w <;> rfl

@[simp] theorem putLow16_low (old : Dword) (v : Word) : (putLow16 old v).setWidth 16 = v := by
  ext i hi
  have e := BitVec.getLsbD_append (x := old.extractLsb' 16 16) (y := v) (i := i)
  simpa [putLow16, hi] using e

@[simp] theorem setReg16_reg16_same (s : State) (r : Reg) (v : Word) : (s.setReg16 r v).reg16 r = v := by
  simp [State.reg16]

/-- A 16-bit write leaves bits 31..16 of the register. -/
theorem setReg16_high (s : State) (r : Reg) (v : Word) :
    ((s.setReg16 r v).reg r).extractLsb' 16 16 = (s.reg r).extractLsb' 16 16 := by
  ext i hi
  have e := BitVec.getLsbD_append (x := (s.reg r).extractLsb' 16 16) (y := v) (i := 16 + i)
  simpa [State.setReg16, putLow16, hi] using e

/-- After an instruction, the state of `retire` is the completed one, unless the effects set a shadow. -/
theorem retire_eq_completed (s t : State) (h : t.intShadow = false) (h2 : t.ssShadow = false) :
    retire s t = completed s t := by
  cases t
  simp_all [retire, retireAt, completed]

end Sys2Proof.Laws
end

