-- ==== Sys2Proof/Laws/Ops.lean ====
section
/-! SUPPORT. For each shared operation, what it can answer: the lemmas that proofs cite instead of unfolding it. -/

namespace Sys2Proof.Laws

open Sys2Proof.Machine Sys2Proof.Safety

/-! Operations in sequence. -/

theorem bind_eq_ok {α β : Type} {x : M α} {f : α → M β} {b : β} :
    (x >>= f) = .ok b ↔ ∃ a, x = .ok a ∧ f a = .ok b := by
  cases x <;> simp [bind, Except.bind]

theorem bind_eq_error {α β : Type} {x : M α} {f : α → M β} {e : Stop} :
    (x >>= f) = .error e ↔ x = .error e ∨ ∃ a, x = .ok a ∧ f a = .error e := by
  cases x <;> simp [bind, Except.bind]

theorem ok_bind {α β : Type} {x : M α} {a : α} (f : α → M β) (h : x = .ok a) : (x >>= f) = f a := by
  subst h; rfl

theorem error_bind {α β : Type} {x : M α} {e : Stop} (f : α → M β) (h : x = .error e) : (x >>= f) = .error e := by
  subst h; rfl

/-! Translation. -/

theorem linToPhys_off {s : State} (la : Dword) (k : Access) (p : Priv) (h : s.pg = false) : linToPhys s la k p = .ok la := by
  simp [linToPhys, h]

/-- Translation depends on CR0, CR3 and the page entries only. -/
theorem linToPhys_congr {s t : State} (la : Dword) (k : Access) (p : Priv) (hc : t.ctrl = s.ctrl)
    (hp : t.pageMap = s.pageMap) : linToPhys t la k p = linToPhys s la k p := by
  unfold linToPhys State.pg
  rw [hc, hp]

/-- A translation that fails is a page fault at the linear address (R232). -/
theorem linToPhys_error {s : State} {la : Dword} {k : Access} {p : Priv} {e : Stop} (h : linToPhys s la k p = .error e) :
    ∃ present, e = .exc (excPF la present k p) := by
  unfold linToPhys at h
  split at h
  · split at h
    · exact ⟨false, by simpa [raising] using h.symm⟩
    · split at h
      · cases h
      · exact ⟨true, by simpa [raising] using h.symm⟩
  · cases h

theorem physAddrs_congr {s t : State} (k : Access) (p : Priv) (la : Dword) (n : Nat) (hc : t.ctrl = s.ctrl)
    (hp : t.pageMap = s.pageMap) : physAddrs t k p la n = physAddrs s k p la n := by
  induction n generalizing la with
  | zero => rfl
  | succ n ih => simp only [physAddrs, linToPhys_congr _ _ _ hc hp, ih]

/-- As many addresses as bytes, each a 32-bit physical address. -/
theorem physAddrs_ok {s : State} {k : Access} {p : Priv} {la : Dword} {n : Nat} {pas : List Nat}
    (h : physAddrs s k p la n = .ok pas) : pas.length = n ∧ ∀ a ∈ pas, a < 2 ^ 32 := by
  induction n generalizing la pas with
  | zero => cases h; simp
  | succ n ih =>
    simp only [physAddrs, bind_eq_ok] at h
    obtain ⟨pa, -, rest, hr, h⟩ := h
    cases h
    obtain ⟨h1, h2⟩ := ih hr
    exact ⟨by simp [h1], by simpa using ⟨pa.isLt, h2⟩⟩

/-- The addresses of consecutive bytes when paging is off (R44). -/
theorem physAddrs_off {s : State} (k : Access) (p : Priv) (la : Dword) (n : Nat) (h : s.pg = false) :
    physAddrs s k p la n = .ok ((List.range n).map fun i => (la + BitVec.ofNat 32 i).toNat) := by
  induction n generalizing la with
  | zero => rfl
  | succ n ih =>
    simp only [physAddrs, linToPhys_off _ _ _ h, ih]
    rw [List.range_succ_eq_map]
    simp only [bind, Except.bind, List.map_cons, List.map_map, BitVec.ofNat_eq_ofNat, BitVec.add_zero]
    congr 2
    refine List.map_congr_left fun i _ => ?_
    simp only [Function.comp]
    congr 1
    rw [BitVec.add_assoc]
    congr 1
    apply BitVec.eq_of_toNat_eq
    simp; omega

/-- What fails among the bytes of an access is a page fault (R51, R232). -/
theorem physAddrs_error {s : State} {k : Access} {p : Priv} {la : Dword} {n : Nat} {e : Stop}
    (h : physAddrs s k p la n = .error e) : ∃ i present, i < n ∧ e = .exc (excPF (la + BitVec.ofNat 32 i) present k p) := by
  induction n generalizing la with
  | zero => cases h
  | succ n ih =>
    simp only [physAddrs, bind_eq_error] at h
    rcases h with h | ⟨pa, -, h | ⟨rest, -, h⟩⟩
    · obtain ⟨b, rfl⟩ := linToPhys_error h
      exact ⟨0, b, by omega, by simp⟩
    · obtain ⟨i, b, hi, rfl⟩ := ih h
      refine ⟨i + 1, b, by omega, ?_⟩
      congr 2
      rw [BitVec.add_assoc]
      congr 1
      apply BitVec.eq_of_toNat_eq
      simp; omega
    · cases h

/-! Accesses to memory. -/

theorem linRead_eq_ok {s : State} {la : Dword} {n : Nat} {p : Priv} {v : Dword} :
    linRead s la n p = .ok v ↔ ∃ pas, physAddrs s .read p la n = .ok pas ∧ v = s.mem.readAll pas := by
  simp only [linRead, bind_eq_ok, Except.ok.injEq, @eq_comm _ v]

theorem linWrite_eq_ok {s t : State} {la v : Dword} {n : Nat} {p : Priv} :
    linWrite s la n v p = .ok t ↔ ∃ pas, physAddrs s .write p la n = .ok pas ∧ t = s.storeAt pas v := by
  simp only [linWrite, bind_eq_ok, Except.ok.injEq, @eq_comm _ t]

theorem checkOff_eq_ok {s : State} {r : SReg} {off : Dword} {n : Nat} {u : Unit} :
    checkOff s r off n = .ok u ↔ s.inSegment r off n = true := by
  simp only [checkOff, raising]
  split <;> simp_all

theorem checkOff_error {s : State} {r : SReg} {off : Dword} {n : Nat} (h : s.inSegment r off n = false) :
    checkOff s r off n = .error (.exc (offsetExc r)) := by
  simp [checkOff, raising, h]

theorem checkAlign_eq_ok {s : State} {la : Dword} {n : Nat} {u : Unit} :
    checkAlign s la n = .ok u ↔ s.alignmentTrap la n = false := by
  simp only [checkAlign, refusing]
  split <;> simp_all

/-- What a read of memory through a segment answers. -/
theorem memRead_eq_ok {s : State} {r : SReg} {off : Dword} {n : Nat} {v : Dword} :
    memRead s r off n = .ok v ↔ ∃ pas, Accesses s .read r off n pas ∧ v = s.mem.readAll pas := by
  simp only [memRead, bind_eq_ok, checkOff_eq_ok, checkAlign_eq_ok, linRead_eq_ok, Accesses]
  constructor
  · rintro ⟨-, h1, -, h2, pas, h3, rfl⟩
    exact ⟨pas, ⟨h1, h2, h3⟩, rfl⟩
  · rintro ⟨pas, ⟨h1, h2, h3⟩, rfl⟩
    exact ⟨(), h1, (), h2, pas, h3, rfl⟩

/-- What a write of memory through a segment does: it stores the bytes, and nothing else. -/
theorem memWrite_eq_ok {s t : State} {r : SReg} {off v : Dword} {n : Nat} :
    memWrite s r off n v = .ok t ↔ ∃ pas, Accesses s .write r off n pas ∧ t = s.storeAt pas v := by
  simp only [memWrite, bind_eq_ok, checkOff_eq_ok, checkAlign_eq_ok, linWrite_eq_ok, Accesses]
  constructor
  · rintro ⟨-, h1, -, h2, pas, h3, rfl⟩
    exact ⟨pas, ⟨h1, h2, h3⟩, rfl⟩
  · rintro ⟨pas, ⟨h1, h2, h3⟩, rfl⟩
    exact ⟨(), h1, (), h2, pas, h3, rfl⟩

/-- The addresses of an access do not depend on the shadows that `begin` ends. -/
theorem accesses_begin {s : State} {k : Access} {r : SReg} {off : Dword} {n : Nat} {pas : List Nat} :
    Accesses s.begin k r off n pas ↔ Accesses s k r off n pas := by
  have h := physAddrs_congr (s := s) (t := s.begin) k s.priv (s.lin r off) n rfl rfl
  exact ⟨fun ⟨a, b, c⟩ => ⟨a, b, h ▸ c⟩, fun ⟨a, b, c⟩ => ⟨a, b, h.symm ▸ c⟩⟩

theorem accesses_ok {s : State} {k : Access} {r : SReg} {off : Dword} {n : Nat} {pas : List Nat}
    (h : Accesses s k r off n pas) : pas.length = n ∧ ∀ a ∈ pas, a < 2 ^ 32 := physAddrs_ok h.2.2

/-! The stack. -/

theorem push_eq_ok {s t : State} {n : Nat} {v : Dword} :
    push s n v = .ok t ↔
      ∃ pas, Accesses s .write .ss (s.pushOff n) n pas ∧ t = (s.storeAt pas v).setStackPtr (s.pushOff n) := by
  simp only [push, bind_eq_ok, memWrite_eq_ok]
  constructor
  · rintro ⟨u, ⟨pas, h, rfl⟩, h2⟩
    cases h2
    exact ⟨pas, h, rfl⟩
  · rintro ⟨pas, h, rfl⟩
    exact ⟨_, ⟨pas, h, rfl⟩, rfl⟩

theorem pop_eq_ok {s t : State} {n : Nat} {v : Dword} :
    pop s n = .ok (v, t) ↔
      ∃ pas, Accesses s .read .ss s.stackPtr n pas ∧ v = s.mem.readAll pas ∧
        t = s.setStackPtr (s.stackPtr + BitVec.ofNat 32 n) := by
  simp only [pop, bind_eq_ok, memRead_eq_ok]
  constructor
  · rintro ⟨w, ⟨pas, h, rfl⟩, h2⟩
    cases h2
    exact ⟨pas, h, rfl, rfl⟩
  · rintro ⟨pas, h, rfl, rfl⟩
    exact ⟨_, ⟨pas, h, rfl⟩, rfl⟩

/-! Operands. -/

theorem readRm8_eq_ok {s : State} {x : Rm Reg8} {v : Byte} : readRm8 s x = .ok v ↔ ReadsByte s x v := by
  cases x with
  | reg r => simp only [readRm8, ReadsByte, Except.ok.injEq, eq_comm]
  | mem m =>
    simp only [readRm8, ReadsByte, readMem, bind_eq_ok, memRead_eq_ok]
    constructor
    · rintro ⟨w, ⟨pas, h, rfl⟩, h2⟩
      cases h2
      exact ⟨pas, h, rfl⟩
    · rintro ⟨pas, h, rfl⟩
      exact ⟨_, ⟨pas, h, rfl⟩, rfl⟩

theorem readRm16_eq_ok {s : State} {x : Rm Reg} {v : Word} : readRm16 s x = .ok v ↔ ReadsWord s x v := by
  cases x with
  | reg r => simp only [readRm16, ReadsWord, Except.ok.injEq, eq_comm]
  | mem m =>
    simp only [readRm16, ReadsWord, readMem, bind_eq_ok, memRead_eq_ok]
    constructor
    · rintro ⟨w, ⟨pas, h, rfl⟩, h2⟩
      cases h2
      exact ⟨pas, h, rfl⟩
    · rintro ⟨pas, h, rfl⟩
      exact ⟨_, ⟨pas, h, rfl⟩, rfl⟩

theorem readRmW_eq_ok {s : State} {x : Rm Reg} {v : Dword} : readRmW s x = .ok v ↔ ReadsWide s x v := by
  cases x with
  | reg r => simp only [readRmW, ReadsWide, Except.ok.injEq, eq_comm]
  | mem m => simp only [readRmW, ReadsWide, readMem, memRead_eq_ok]

theorem writeRm8_ok {s : State} {x : Rm Reg8} {v : Byte} {pas : List Nat} (h : Writes s x 1 pas) :
    writeRm8 s x v = .ok (putByte s x pas v) := by
  cases x with
  | reg r => rfl
  | mem m => exact memWrite_eq_ok.2 ⟨pas, h, rfl⟩

theorem writeRmW_ok {s : State} {x : Rm Reg} {v : Dword} {pas : List Nat} (h : Writes s x s.opBytes pas) :
    writeRmW s x v = .ok (putWide s x pas v) := by
  cases x with
  | reg r => rfl
  | mem m => exact memWrite_eq_ok.2 ⟨pas, h, rfl⟩

/-- What a write of an 8-bit operand can do. -/
theorem writeRm8_eq_ok {s t : State} {x : Rm Reg8} {v : Byte} (h : writeRm8 s x v = .ok t) :
    ∃ pas, Writes s x 1 pas ∧ t = putByte s x pas v := by
  cases x with
  | reg r => cases h; exact ⟨[], trivial, rfl⟩
  | mem m => exact memWrite_eq_ok.1 h

/-- What a write of an operand of the operand size can do. -/
theorem writeRmW_eq_ok {s t : State} {x : Rm Reg} {v : Dword} (h : writeRmW s x v = .ok t) :
    ∃ pas, Writes s x s.opBytes pas ∧ t = putWide s x pas v := by
  cases x with
  | reg r => cases h; exact ⟨[], trivial, rfl⟩
  | mem m => exact memWrite_eq_ok.1 h

theorem readsByte_begin {s : State} {x : Rm Reg8} {v : Byte} : ReadsByte s.begin x v ↔ ReadsByte s x v := by
  cases x with
  | reg r => exact Iff.rfl
  | mem m =>
    exact ⟨fun ⟨pas, h, e⟩ => ⟨pas, accesses_begin.1 h, e⟩, fun ⟨pas, h, e⟩ => ⟨pas, accesses_begin.2 h, e⟩⟩

theorem readsWord_begin {s : State} {x : Rm Reg} {v : Word} : ReadsWord s.begin x v ↔ ReadsWord s x v := by
  cases x with
  | reg r => exact Iff.rfl
  | mem m =>
    exact ⟨fun ⟨pas, h, e⟩ => ⟨pas, accesses_begin.1 h, e⟩, fun ⟨pas, h, e⟩ => ⟨pas, accesses_begin.2 h, e⟩⟩

theorem readsWide_begin {s : State} {x : Rm Reg} {v : Dword} : ReadsWide s.begin x v ↔ ReadsWide s x v := by
  cases x with
  | reg r => exact Iff.rfl
  | mem m =>
    exact ⟨fun ⟨pas, h, e⟩ => ⟨pas, accesses_begin.1 h, e⟩, fun ⟨pas, h, e⟩ => ⟨pas, accesses_begin.2 h, e⟩⟩

theorem writes_begin {ρ : Type} {s : State} {x : Rm ρ} {n : Nat} {pas : List Nat} :
    Writes s.begin x n pas ↔ Writes s x n pas := by
  cases x with
  | reg r => exact Iff.rfl
  | mem m => exact accesses_begin

/-! Segment registers. -/

/-- A load of a segment register writes that register only, by the 8086 rule in V86 mode (R49). -/
theorem loadSeg_eq_ok {s t : State} {r : SReg} {sel : Word} (h : loadSeg s r sel = .ok t) :
    ∃ g, t = s.setSeg r g ∧ (s.vm = true → g = seg8086 sel) := by
  unfold loadSeg at h
  split at h
  · rename_i hm
    have hv : s.vm = false := by
      revert hm; unfold State.mode; cases s.vm <;> simp
    unfold loadSegProtected at h
    simp only [hv]
    split at h
    · split at h
      · cases h
      · cases h; exact ⟨_, rfl, by simp⟩
    · split at h
      · cases h
      · split at h
        · cases h; exact ⟨_, rfl, by simp⟩
        · cases h
  · cases h
    exact ⟨_, rfl, fun _ => rfl⟩

/-- In V86 mode and in real-address mode no selector faults (R49). -/
theorem loadSeg_8086 {s : State} (r : SReg) (sel : Word) (h : s.mode ≠ .prot) :
    loadSeg s r sel = .ok (s.setSeg r (seg8086 sel)) := by
  unfold loadSeg
  split
  · contradiction
  · rfl

/-! Ports. -/

theorem ioCheckFrom_open {s : State} {p n : Nat} (h : PortsOpen s p n) : ioCheckFrom s p n = .ok () := by
  induction n generalizing p with
  | zero => rfl
  | succ n ih =>
    have h0 := h 0 (by omega)
    simp only [ioCheckFrom, if_neg (show ¬ 0xFFFF < p by omega), show ioBit s p = .ok false from h0.2]
    exact ih fun k hk => by simpa [Nat.add_assoc, Nat.add_comm 1] using h (k + 1) (by omega)

theorem ioCheckFrom_closed {s : State} {p n : Nat} (h : PortsClosed s p n) :
    ioCheckFrom s p n = .error (.exc excGP0) := by
  obtain ⟨k, hk, ho, hc⟩ := h
  induction k generalizing p n with
  | zero =>
    cases n with
    | zero => omega
    | succ n =>
      simp only [ioCheckFrom, raising]
      split
      · rfl
      · rcases hc with hc | hc
        · omega
        · simp only [Nat.add_zero] at hc
          simp [hc, bind, Except.bind]
  | succ k ih =>
    cases n with
    | zero => omega
    | succ n =>
      have h0 := ho 0 (by omega)
      simp only [ioCheckFrom, if_neg (show ¬ 0xFFFF < p by omega), show ioBit s p = .ok false from h0.2]
      refine ih (p := p + 1) (by omega) (fun j hj => ?_) ?_
      · simpa [Nat.add_assoc, Nat.add_comm 1] using ho (j + 1) (by omega)
      · simpa [Nat.add_assoc, Nat.add_comm 1] using hc

/-! The frame of a meaning. -/

theorem lockGuard_none {s : State} (l : Bool) (h : s.pfx.lock = false) : lockGuard s l = .ok () := by
  simp [lockGuard, h]

/-- The LOCK check passes, or raises #GP(0) or #UD (R110, R190). -/
theorem lockGuard_cases (s : State) (l : Bool) :
    lockGuard s l = .ok () ∨ lockGuard s l = .error (.exc excGP0) ∨ lockGuard s l = .error (.exc excUD) := by
  unfold lockGuard raising
  split
  · split
    · exact .inr (.inl rfl)
    · split
      · exact .inl rfl
      · exact .inr (.inr rfl)
  · exact .inl rfl

theorem run_ok {s t : State} {l : Bool} {body : State → M State} (hl : lockGuard s l = .ok ())
    (h : body s.begin = .ok t) : run s l body = .next (retire s t) := by
  simp [run, finish, hl, h, bind, Except.bind]

theorem run_error {s : State} {l : Bool} {body : State → M State} {e : Stop} (hl : lockGuard s l = .ok ())
    (h : body s.begin = .error e) : run s l body = stopped s e := by
  simp [run, finish, hl, h, bind, Except.bind]

/-- An instruction that answers a next state completed, or delivered an exception. -/
theorem run_next {s t : State} {l : Bool} {body : State → M State} (h : run s l body = .next t) :
    (∃ u, body s.begin = .ok u ∧ t = retire s u) ∨ ∃ e, raise s e = .next t := by
  unfold run finish at h
  split at h
  · rename_i u hu
    simp only [bind_eq_ok] at hu
    obtain ⟨-, -, v, hv, e⟩ := hu
    cases e
    cases h
    exact .inl ⟨v, hv, rfl⟩
  · rename_i e _
    cases e with
    | exc e => exact .inr ⟨e, h⟩
    | refuse r => cases h

theorem runJump_ok {s t : State} {body : State → M State} (hl : lockGuard s false = .ok ())
    (h : body s.begin = .ok t) : runJump s body = .next (retireAt s t.transferred t.eip) := by
  simp [runJump, finish, hl, h, bind, Except.bind]

theorem runJump_error {s : State} {body : State → M State} {e : Stop} (hl : lockGuard s false = .ok ())
    (h : body s.begin = .error e) : runJump s body = stopped s e := by
  simp [runJump, finish, hl, h, bind, Except.bind]

/-- An instruction that transfers control and answers a next state completed, or delivered an exception. -/
theorem runJump_next {s t : State} {body : State → M State} (h : runJump s body = .next t) :
    (∃ u, body s.begin = .ok u ∧ t = retireAt s u.transferred u.eip) ∨ ∃ e, raise s e = .next t := by
  unfold runJump finish at h
  split at h
  · rename_i u hu
    simp only [bind_eq_ok] at hu
    obtain ⟨-, -, v, hv, e⟩ := hu
    cases e
    cases h
    exact .inl ⟨v, hv, rfl⟩
  · rename_i e _
    cases e with
    | exc e => exact .inr ⟨e, h⟩
    | refuse r => cases h

theorem sensitive_low {s : State} (hv : s.vm = true) (hi : s.iopl < 3) : sensitive s = .error (.exc excGP0) := by
  unfold sensitive
  rw [hv, decide_eq_true hi]
  rfl

theorem sensitive_ok {s : State} (h : s.vm = true → s.iopl = 3) : sensitive s = .ok () := by
  unfold sensitive
  cases hv : s.vm with
  | false => rfl
  | true => simp [h hv]

theorem mode_v86 {s : State} (h : s.vm = true) : s.mode = .v86 := by simp [State.mode, h]

theorem privileged_v86 {s : State} (h : s.vm = true) : privileged s = .error (.exc excGP0) := by
  simp [privileged, mode_v86 h, raising]

theorem privileged_ok {s : State} (h : MayUsePrivileged s) : privileged s = .ok () := by
  obtain ⟨hv, hc⟩ := h
  cases hp : s.pe with
  | false => simp [privileged, State.mode, hv, hp]
  | true => simp [privileged, State.mode, hv, hp, hc hp]

/-! Delivery. -/

/-- The pushes of the frame change memory, and nothing else. -/
theorem pushFrame_ok {s t : State} {d : SegDesc} {esp esp' : Dword} {vs : List Dword}
    (h : pushFrame s d esp vs = .ok (t, esp')) :
    (∃ m w, t = { s with mem := m, written := w }) ∧ (memoryOk s = true → memoryOk t = true) := by
  induction vs generalizing s esp with
  | nil => cases h; exact ⟨⟨_, _, rfl⟩, id⟩
  | cons v vs ih =>
    simp only [pushFrame] at h
    split at h
    · cases h
    · simp only [bind_eq_ok, linWrite_eq_ok] at h
      obtain ⟨u, ⟨pas, hp, rfl⟩, h⟩ := h
      obtain ⟨⟨m, w, rfl⟩, h2⟩ := ih h
      refine ⟨⟨m, w, rfl⟩, fun hm => h2 ?_⟩
      simp only [memoryOk, Bool.and_eq_true, storeAt_mem] at hm ⊢
      exact ⟨writeAll_wf _ _ hm.1, writeAll_range _ _ (physAddrs_ok hp).2 hm.2⟩

theorem insideDelivery_eq_ok {α : Type} {x : M α} {a : α} : insideDelivery x = .ok a ↔ x = .ok a := by
  unfold insideDelivery refusing
  split <;> simp_all

theorem insideSwitch_eq_ok {α : Type} {x : M α} {a : α} : insideSwitch x = .ok a ↔ x = .ok a := by
  unfold insideSwitch refusing
  split <;> simp_all

/-- The entry into a handler: the frame is pushed, and the handler's state is entered (R203). -/
theorem enterHandler_ok {s t : State} {ev : Event} {g : Gate} {c : SegDesc} (h : enterHandler s ev g c = .ok t) :
    ∃ u ss0 stack esp0 esp, pushFrame s stack esp0 (frameWords s ev) = .ok (u, esp) ∧
      s.segDesc ss0 = some stack ∧ t = handlerState u ev.trap g c ss0 stack esp := by
  unfold enterHandler at h
  rw [insideDelivery_eq_ok] at h
  split at h
  · cases h
  · simp only [bind_eq_ok] at h
    obtain ⟨esp0, -, ss0, -, h⟩ := h
    split at h
    · cases h
    · rename_i stack hs
      split at h
      case isFalse => cases h
      simp only [bind_eq_ok] at h
      obtain ⟨⟨u, esp⟩, hp, h⟩ := h
      cases h
      exact ⟨u, _, stack, esp0, esp, hp, hs, rfl⟩

/-! The task switch. -/

theorem writeTssFields_ok {s t : State} {fs : List (Nat × Nat × Dword)} (h : writeTssFields s fs = .ok t) :
    (∃ m w, t = { s with mem := m, written := w }) ∧ (memoryOk s = true → memoryOk t = true) := by
  induction fs generalizing s with
  | nil => cases h; exact ⟨⟨_, _, rfl⟩, id⟩
  | cons f fs ih =>
    obtain ⟨a, n, v⟩ := f
    simp only [writeTssFields, bind_eq_ok, linWrite_eq_ok] at h
    obtain ⟨u, ⟨pas, hp, rfl⟩, h⟩ := h
    obtain ⟨⟨m, w, rfl⟩, h2⟩ := ih h
    refine ⟨⟨m, w, rfl⟩, fun hm => h2 ?_⟩
    simp only [memoryOk, Bool.and_eq_true, storeAt_mem] at hm ⊢
    exact ⟨writeAll_wf _ _ hm.1, writeAll_range _ _ (physAddrs_ok hp).2 hm.2⟩

/-- The loads of the incoming task's segment registers change segment registers only. -/
theorem loadTaskSegs_ok {s t : State} {l : List (SReg × Word)} (h : loadTaskSegs s l = .ok t) :
    ∃ g, t = { s with segs := g } := by
  induction l generalizing s with
  | nil => cases h; exact ⟨_, rfl⟩
  | cons c l ih =>
    obtain ⟨r, sel⟩ := c
    simp only [loadTaskSegs, bind_eq_ok] at h
    obtain ⟨u, hu, h⟩ := h
    obtain ⟨g, rfl⟩ := ih h
    have : ∃ x, u = s.setSeg r x := by
      unfold loadTaskSeg at hu
      split at hu
      · cases hu; exact ⟨_, rfl⟩
      · unfold loadSegProtected at hu
        split at hu
        · split at hu
          · cases hu
          · cases hu; exact ⟨_, rfl⟩
        · split at hu
          · cases hu
          · split at hu
            · cases hu; exact ⟨_, rfl⟩
            · cases hu
    obtain ⟨x, rfl⟩ := this
    exact ⟨g, rfl⟩

/-- The loads of the incoming task's other registers: what they change, and CPL when VM is 1 (R208). -/
theorem loadTaskRegs_ok {s t : State} {sel : Word} {d : TssDesc} (h : loadTaskRegs s sel d = .ok t) :
    (∃ regs eip fl cpl cr3 ldtr tr draws,
      t = { s with regs := regs, eip := eip, eflags := fl, cpl := cpl, ctrl := { s.ctrl with cr3 := cr3 }, ldtr := ldtr,
                   tr := tr, draws := draws }) ∧ (t.vm = true → t.cpl = 3) := by
  simp only [loadTaskRegs, bind_eq_ok] at h
  obtain ⟨u, hu, h⟩ := h
  cases h
  unfold loadTaskImage at hu
  split at hu
  · simp only [loadTaskRegs16, bind_eq_ok] at hu
    obtain ⟨ip, -, fl, hfl, ax, -, cx, -, dx, -, bx, -, sp, -, bp, -, si, -, di, -, cs, -, ldt, -, hu⟩ := hu
    cases hu
    refine ⟨⟨_, _, _, _, s.ctrl.cr3, _, _, _, rfl⟩, fun hv => ?_⟩
    exfalso
    obtain ⟨pas, hp, rfl⟩ := linRead_eq_ok.1 hfl
    simp only [State.vm, Eflags.ofWord] at hv
    revert hv
    have hlen := (physAddrs_ok hp).1
    match pas, hlen with
    | [a, b], _ =>
      simp [Memory.readAll]
  · simp only [loadTaskRegs32, bind_eq_ok] at hu
    obtain ⟨cr3, -, eip, -, fl, -, eax, -, ecx, -, edx, -, ebx, -, esp, -, ebp, -, esi, -, edi, -, cs, -, ldt, -, hu⟩ := hu
    split at hu
    case isTrue => cases hu
    cases hu
    refine ⟨⟨_, _, _, _, _, _, _, _, rfl⟩, fun hv => ?_⟩
    simp only [State.vm] at hv ⊢
    simp [hv]

end Sys2Proof.Laws
end

