-- ==== Sys2Proof/Laws/Deliver.lean ====
section
/-! SUPPORT. What a task switch, the delivery of an event, an instruction boundary and a step can answer. -/

namespace Sys2Proof.Laws

open Sys2Proof.Machine Sys2Proof.Safety

/-- Every segment register is loaded by the 8086 rule when the incoming EFLAGS has VM = 1 (R208). -/
theorem loadTaskSegs_v86 {s t : State} {es cs ss ds fs gs : Word} (hv : s.vm = true)
    (h : loadTaskSegs s [(.es, es), (.cs, cs), (.ss, ss), (.ds, ds), (.fs, fs), (.gs, gs)] = .ok t) :
    t = { s with segs := { es := seg8086 es, cs := seg8086 cs, ss := seg8086 ss, ds := seg8086 ds, fs := seg8086 fs,
                           gs := seg8086 gs } } := by
  have hl : ∀ (g : Segs) (r : SReg) (w : Word),
      loadTaskSeg { s with segs := g } r w = .ok { s with segs := g.set r (seg8086 w) } := by
    intro g r w
    unfold loadTaskSeg
    rw [if_pos (show State.vm { s with segs := g } = true from hv)]
    rfl
  have e : s = { s with segs := s.segs } := rfl
  rw [e] at h
  simp only [loadTaskSegs, hl, bind, Except.bind] at h
  cases h
  rfl

/-- An 80286 TSS holds no high word of EFLAGS, so VM is cleared (R208). -/
theorem loadTaskRegs_286 {s t : State} {sel : Word} {d : TssDesc} (hd : d.is286 = true)
    (h : loadTaskRegs s sel d = .ok t) : t.vm = false := by
  simp only [loadTaskRegs, bind_eq_ok] at h
  obtain ⟨u, hu, h⟩ := h
  have e : t.vm = u.vm := by cases h; rfl
  rw [e]
  unfold loadTaskImage at hu
  rw [if_pos hd] at hu
  simp only [loadTaskRegs16, bind_eq_ok] at hu
  obtain ⟨ip, -, fl, hfl, ax, -, cx, -, dx, -, bx, -, sp, -, bp, -, si, -, di, -, cs, -, ldt, -, hx⟩ := hu
  have e2 : u.vm = (Eflags.ofWord fl).vm := by cases hx; rfl
  rw [e2]
  obtain ⟨pas, hp, rfl⟩ := linRead_eq_ok.1 hfl
  have hlen := (physAddrs_ok hp).1
  match pas, hlen with
  | [a, b], _ => simp [Eflags.ofWord, Memory.readAll]

/-- What a task switch can do (R207, R208): which fields it changes; that memory stays in its form; and, when the new EFLAGS
has VM = 1, CPL and the segment registers. -/
theorem taskSwitch_ok {s t : State} {sel : Word} {eip : Dword} (h : taskSwitch s sel eip = .ok t) :
    (∃ regs segs eip fl cpl cr3 ldtr tr draws mem,
      t = { s with
            regs := regs, segs := segs, eip := eip, eflags := fl, cpl := cpl, ctrl := { s.ctrl with cr3 := cr3 }
            ldtr := ldtr, tr := tr, draws := draws, mem := mem, written := [], intShadow := false, ssShadow := false, halted := false
            ilen := 0, pfx := Pfx.none, iterating := none }) ∧
      (memoryOk s = true → memoryOk t = true) ∧
      (t.vm = true → t.cpl = 3 ∧ ∀ r, t.seg r = seg8086 (t.sel r)) := by
  unfold taskSwitch at h
  split at h
  · cases h
  · rename_i d _
    split at h
    · cases h
    · rw [insideSwitch_eq_ok] at h
      simp only [bind_eq_ok] at h
      obtain ⟨u, hu, sels, hs, v, hv, w, hw, h⟩ := h
      have hvw : v.vm = w.vm := by
        obtain ⟨g, e⟩ := loadTaskSegs_ok hw
        rw [e]; rfl
      have hseg : w.vm = true → ∀ r, w.seg r = seg8086 (w.sel r) := by
        intro hvm
        rw [← hvw] at hvm
        unfold taskSelectors at hs
        split at hs
        · rename_i h286
          rw [loadTaskRegs_286 h286 hv] at hvm
          cases hvm
        · simp only [taskSelectors32, bind_eq_ok] at hs
          obtain ⟨es, -, cs, -, ss, -, ds, -, fs, -, gs, -, hs⟩ := hs
          cases hs
          have e := loadTaskSegs_v86 hvm hw
          intro r
          have e2 := congrArg State.segs e
          cases r <;> (simp only [State.seg, State.sel, e2]; rfl)
      obtain ⟨⟨m, wr, eu⟩, hm⟩ := writeTssFields_ok hu
      obtain ⟨⟨regs, eip', fl, cpl, cr3, ldtr, tr, draws, ev⟩, hc⟩ := loadTaskRegs_ok hv
      obtain ⟨g, ew⟩ := loadTaskSegs_ok hw
      have hcpl : w.vm = true → w.cpl = 3 := by
        intro hvm
        rw [ew]
        exact hc (hvw.trans hvm)
      have hmem : memoryOk s = true → memoryOk w = true := by
        intro h0
        have h1 := hm h0
        rw [ew, ev]
        exact h1
      subst eu ev ew
      cases h
      exact ⟨⟨regs, g, eip', fl, cpl, cr3, ldtr, tr, draws, m, rfl⟩, hmem, fun hvm => ⟨hcpl hvm, hseg hvm⟩⟩

/-- Delivery through a task gate is the task switch, and its single-step trap (R207, R215). -/
theorem enterTask_ok {s t : State} {ev : Event} {g : Gate} (h : enterTask s ev g = .ok t) :
    ∃ u, taskSwitch s g.sel ev.ret = .ok u ∧ t = { u with trapPending := u.trapPending || ev.trap } := by
  simp only [enterTask, bind_eq_ok] at h
  obtain ⟨u, hu, h⟩ := h
  cases h
  exact ⟨u, hu, rfl⟩

/-- The target of a gate that passes R206's check is a nonconforming code segment of privilege level 0. -/
theorem gateTarget_some {s : State} {g : Gate} {t : SegDesc} :
    s.gateTarget g = some t ↔
      s.segDesc g.sel = some t ∧ t.code = true ∧ t.conforming = false ∧ t.dpl = 0 := by
  unfold State.gateTarget
  cases hd : s.segDesc g.sel with
  | none => simp
  | some d =>
    simp only [Option.some.injEq]
    split
    · rename_i hc
      simp only [Bool.and_eq_true, Bool.not_eq_true', beq_iff_eq] at hc
      simp only [Option.some.injEq]
      constructor
      · rintro rfl; exact ⟨rfl, hc.1.1, hc.1.2, hc.2⟩
      · exact fun h => h.1
    · rename_i hc
      simp only [Bool.and_eq_true, Bool.not_eq_true', beq_iff_eq, not_and] at hc
      constructor
      · intro h; cases h
      · rintro ⟨rfl, h1, h2, h3⟩; exact absurd h3 (hc ⟨h1, h2⟩)

/-- What delivery can answer with a next state: in V86 mode the entry into a handler or a task switch, each through a gate
(R203, R207); in real-address mode the 8086 interrupt (log 18). -/
theorem deliver_next {s t : State} {ev : Event} (h : deliver s ev = .next t) :
    (s.vm = true ∧ ∃ ev' g, (∃ c, enterHandler s ev' g c = .ok t) ∨ enterTask s ev' g = .ok t) ∨
    (s.mode = .real ∧ ∃ ip cs u, pushReal s ev.ret = .ok u ∧
      t = { u with
            segs := u.segs.set .cs (seg8086 cs), eip := ip, eflags := { u.eflags with intf := false, tf := false }
            trapPending := u.trapPending || ev.trap, intShadow := false, ssShadow := false, halted := false
            written := [], ilen := 0, pfx := Pfx.none, iterating := none }) := by
  have once : ∀ ev' : Event, deliverOnce s ev' = .done t →
      ∃ g, (∃ c, enterHandler s ev' g c = .ok t) ∨ enterTask s ev' g = .ok t := by
    intro ev' he
    unfold deliverOnce at he
    split at he
    · cases he
    · cases he
    · rename_i g _
      refine ⟨g, ?_⟩
      unfold deliverGate at he
      have of : ∀ x : M State, Delivered.of x = .done t → x = .ok t := by
        intro x hx
        unfold Delivered.of at hx
        split at hx <;> cases hx
        rfl
      split at he
      · split at he
        · exact .inr (of _ he)
        · cases he
        · split at he
          · cases he
          · exact .inl ⟨_, of _ he⟩
      · cases he
  unfold deliver at h
  split at h
  · rename_i hm
    refine .inl ⟨?_, ?_⟩
    · revert hm
      unfold State.mode
      cases s.vm <;> cases s.pe <;> simp
    · unfold deliverV86 at h
      split at h
      · rename_i hd
        cases h
        obtain ⟨g, hg⟩ := once ev hd
        exact ⟨ev, g, hg⟩
      · cases h
      · rename_i sel _
        split at h
        · rename_i hd
          cases h
          obtain ⟨g, hg⟩ := once _ hd
          exact ⟨_, g, hg⟩
        · cases h
        · cases h
  · rename_i hm
    refine .inr ⟨hm, ?_⟩
    unfold deliverReal at h
    split at h
    · cases h
    · split at h
      · cases h
      · rename_i ip cs u hd
        simp only [bind_eq_ok] at hd
        obtain ⟨ip', -, cs', -, u', hp, e⟩ := hd
        cases e
        cases h
        exact ⟨ip, _, u, hp, rfl⟩
  · cases h

/-- An exception that an instruction raises is delivered from the state in which the instruction began, CR2 apart. -/
theorem raise_next {s t : State} {e : Exc} (h : raise s e = .next t) :
    ∃ cr2 ev, deliver { s with ctrl := { s.ctrl with cr2 := cr2 } } ev = .next t := by
  unfold raise at h
  cases hc : e.cr2 with
  | none => exact ⟨s.ctrl.cr2, _, by rw [hc] at h; exact h⟩
  | some la => exact ⟨la, _, by rw [hc] at h; exact h⟩

/-- What an instruction boundary can answer with a next state: an event delivered, or a halted processor that stays halted. -/
theorem takeEvent_some {s : State} {o : Out} (h : takeEvent s = some o) :
    ∃ u ev, o = deliver u ev ∧ ∃ tp nm np irqs,
      u = { s with trapPending := tp, nmiMasked := nm, nmiPending := np, irqs := irqs } := by
  unfold takeEvent at h
  split at h
  · cases h; exact ⟨_, _, rfl, false, s.nmiMasked, s.nmiPending, s.irqs, rfl⟩
  · split at h
    · cases h; exact ⟨_, _, rfl, s.trapPending, true, false, s.irqs, rfl⟩
    · split at h
      · split at h
        · cases h
        · cases h; exact ⟨_, _, rfl, s.trapPending, s.nmiMasked, s.nmiPending, _, rfl⟩
      · cases h

/-- What the environment's offer changes: memory, the pending requests, the schedule and the draw count. -/
theorem absorb_ok {s t : State} (h : absorb s = .ok t) :
    (∃ mem irqs np fp draws evs,
      t = { s with mem := mem, irqs := irqs, nmiPending := np, fpPending := fp, draws := draws, extEvents := evs }) ∧
      (memoryOk s = true → memoryOk t = true) := by
  unfold absorb at h
  split at h
  · cases h; exact ⟨⟨_, _, _, _, _, _, rfl⟩, id⟩
  · split at h
    · cases h
    · rename_i hb
      cases h
      refine ⟨⟨_, _, _, _, _, _, rfl⟩, fun hm => ?_⟩
      simp only [memoryOk, Bool.and_eq_true] at hm ⊢
      exact ⟨busWrite_wf _ hm.1, busWrite_range _ hb hm.2⟩

/-- What comes next when no event is taken is the next iteration of a repeated instruction, which is not fetched, or what stands at
CS:EIP. -/
theorem nextInstruction_cases (s : State) :
    (s.iterating = none ∧ nextInstruction s = fetchDecode s) ∨
    ∃ r, s.iterating = some r ∧
      nextInstruction s = .execute r.op.instr { s with ilen := r.ilen, pfx := r.pfx, iterating := none } := by
  unfold nextInstruction
  cases h : s.iterating with
  | none => exact .inl ⟨rfl, rfl⟩
  | some r => exact .inr ⟨r, rfl, rfl⟩

/-- A step that answers a next state took an event at a boundary, kept the processor halted, stopped while fetching or
decoding, or executed an instruction. -/
theorem step_next {s t : State} (h : step s = .next t) :
    (∃ u, boundary s = .outcome (.next u) ∧ t = u) ∨
    (∃ u, boundary s = .go u ∧
      ((∃ o, nextInstruction u = .outcome o ∧ o = .next t) ∨
        ∃ i v, nextInstruction u = .execute i v ∧ exec i v = .next t)) := by
  unfold step at h
  split at h
  · rename_i o ho
    subst h
    exact .inl ⟨t, ho, rfl⟩
  · rename_i u hu
    refine .inr ⟨u, hu, ?_⟩
    split at h
    · rename_i o ho
      exact .inl ⟨o, ho, h⟩
    · rename_i i v hv
      exact .inr ⟨i, v, hv, h⟩

end Sys2Proof.Laws
end

