-- ==== Sys2Proof/Tests/Slice0.lean ====
section
/-! SUPPORT. Tests: ill-formed terms are refused, the words of the spec's encodings decode, single steps give what
spec/95_test_vectors.md says, and for every obligation with hypotheses a concrete state meets them all (`witness_...`). -/

set_option Elab.async false

namespace Sys2Proof.Tests

open Sys2Proof Sys2Proof.Machine Sys2Proof.Safety

/-! Helpers. -/

/-- Memory with consecutive bytes written. -/
def poke (m : Memory) : Nat → List Byte → Memory
  | _, [] => m
  | a, b :: bs => poke (m.write a b) (a + 1) bs

/-- A view of the next state, none for a fault or a refusal. -/
def look {α : Type} (o : Out) (f : State → α) : Option α :=
  match o with
  | .next t => some (f t)
  | _ => none

/-- What was refused. -/
def refusal (o : Out) : Option Refusal :=
  match o with
  | .refused r => some r
  | _ => none

/-- A word of memory. -/
def word (s : State) (a : Nat) : Dword := s.mem.readAll [a, a + 1]

/-- A doubleword of memory. -/
def dword (s : State) (a : Nat) : Dword := s.mem.readAll [a, a + 1, a + 2, a + 3]

/-- The monitor's tables as 95_test_vectors uses them: gates for vectors 0, 1, 2, 6, 8, 0CH, 0DH, 0EH, 21H (DPL 3), 22H (DPL 0)
and 23H (target 001BH) at 7000H; a TSS at 6000H with ESP0 8000H, SS0 10H and a bitmap at 6068H that closes ports 60H and
400H. -/
def tables : Memory :=
  let m := poke [] 0x6004 [0x00, 0x80, 0, 0, 0x10, 0x00]
  let m := poke m 0x6066 [0x68, 0x00]
  let m := poke (poke m 0x6074 [0x01]) 0x60E8 [0x01]
  let m := poke m 0x7000 [0x00, 0x30, 0x08, 0x00, 0x00, 0x8F, 0x40, 0x00]
  let m := poke m 0x7008 [0x00, 0x31, 0x08, 0x00, 0x00, 0x8F, 0x40, 0x00]
  let m := poke m 0x7010 [0x00, 0x32, 0x08, 0x00, 0x00, 0x8E, 0x40, 0x00]
  let m := poke m 0x7030 [0x00, 0x36, 0x08, 0x00, 0x00, 0x8E, 0x40, 0x00]
  let m := poke m 0x7040 [0x00, 0x38, 0x08, 0x00, 0x00, 0x8F, 0x40, 0x00]
  let m := poke m 0x7060 [0x00, 0x3C, 0x08, 0x00, 0x00, 0x8E, 0x40, 0x00]
  let m := poke m 0x7068 [0x00, 0x20, 0x08, 0x00, 0x00, 0x8E, 0x40, 0x00]
  let m := poke m 0x7070 [0x00, 0x3E, 0x08, 0x00, 0x00, 0x8E, 0x40, 0x00]
  let m := poke m 0x7108 [0x00, 0x10, 0x08, 0x00, 0x00, 0xEE, 0x40, 0x00]
  let m := poke m 0x7110 [0x00, 0x11, 0x08, 0x00, 0x00, 0x8E, 0x40, 0x00]
  poke m 0x7118 [0x00, 0x12, 0x1B, 0x00, 0x00, 0xEE, 0x40, 0x00]

/-- A flat segment. -/
def flat (dpl : BitVec 2) (code : Bool) : SegDesc :=
  { base := 0, limit := 0xFFFFFFFF, dpl := dpl, code := code, conforming := false, big := true }

/-- The V86 task of 95_test_vectors: CS 1000H, SS 2000H, DS 3000H, ES 4000H, IP 100H, SP 100H, IOPL 3, IF 1. -/
def v86 : State :=
  { State.reset with
    regs := { State.reset.regs with esp := 0x100 }
    segs := { cs := seg8086 0x1000, ss := seg8086 0x2000, ds := seg8086 0x3000, es := seg8086 0x4000, fs := seg8086 0
              gs := seg8086 0 }
    eip := 0x100
    eflags := Eflags.ofWord 0x23202
    cpl := 3
    ctrl := { State.reset.ctrl with cr0 := 0x60000011 }
    idtr := { base := 0x7000, limit := 0x7FF }
    tr := { sel := 0x28, base := 0x6000, limit := 0x2068, is286 := false }
    mem := tables
    descriptors := [{ sel := 0x08, desc := .seg (flat 0 true) }, { sel := 0x10, desc := .seg (flat 0 false) },
                    { sel := 0x18, desc := .seg (flat 2 true) }] }

/-- The same with IOPL 0. -/
def v86Iopl0 : State := { v86 with eflags := Eflags.ofWord 0x20202 }
def v86Iopl2 : State := { v86 with eflags := { v86.eflags with iopl := 2 } }

/-- The monitor at CPL 0 in 32-bit protected mode, ESP 7FDCH. -/
def monitor : State :=
  { v86 with
    segs := { cs := descSeg 8 (flat 0 true), ss := descSeg 0x10 (flat 0 false), ds := descSeg 0x10 (flat 0 false)
              es := nullSeg 0, fs := nullSeg 0, gs := nullSeg 0 }
    regs := { v86.regs with esp := 0x7FDC }
    eip := 0x401000
    eflags := Eflags.ofWord 0x3002
    cpl := 0 }

/-- A state with general registers. -/
def regs (s : State) (eax ecx edx ebx : Dword) : State :=
  { s with regs := { s.regs with eax := eax, ecx := ecx, edx := edx, ebx := ebx } }

/-- A state with CF. -/
def carry (s : State) (c : Bool) : State := { s with eflags := { s.eflags with cf := c } }

/-- One step on a state with bytes at CS:EIP. -/
def go (s : State) (bytes : List Byte) : Out :=
  step { s with mem := poke s.mem ((s.seg .cs).base + s.eip).toNat bytes }

/-- One step on the bytes after one prefix byte, which was executed before. -/
def goPfx (s : State) (p : Pfx) (bytes : List Byte) : Out :=
  step { s with mem := poke s.mem ((s.seg .cs).base + s.eip + 1).toNat bytes, ilen := 1, pfx := p }

/-- After the prefix byte 66. -/
def p66 : Pfx := { Pfx.none with opSize := true }

/-- After the prefix byte 67. -/
def p67 : Pfx := { Pfx.none with addrSize := true }

/-- After the prefix byte F0. -/
def pF0 : Pfx := { Pfx.none with lock := true }

/-- After the prefix byte F3. -/
def pF3 : Pfx := { Pfx.none with rep := some .rep }

/-- What 95_test_vectors calls an exception: the handler's EIP, the saved EIP image and, if one is pushed, the error code. -/
def trapped (o : Out) (err : Bool) : Option (Dword × Dword × Option Dword) :=
  look o fun t => (t.eip, dword t 0x7FDC, if err then some (dword t 0x7FD8) else none)

/-- #GP(0) at IP 100H through the monitor's gate. -/
def gp0 : Option (Dword × Dword × Option Dword) := some (0x402000, 0x100, some 0)

/-- #UD at IP 100H through the monitor's gate. -/
def ud : Option (Dword × Dword × Option Dword) := some (0x403600, 0x100, none)

/-! Ill-formed terms are refused (R76, R78). -/

theorem test_bp_needs_displacement : (Instr.movRRm .eax (.mem (.a16 (.based .bp .none)))).wf = false := by decide
theorem test_esp_needs_sib : (Instr.divW (.mem (.a32 (.based .esp (.d8 0))))).wf = false := by decide
theorem test_ebp_needs_displacement : (Instr.lidt (.a32 (.based .ebp .none))).wf = false := by decide
theorem test_sib_ebp_needs_displacement : (Instr.sar8Cl (.mem (.a32 (.sib 1 .eax .ebp .none)))).wf = false := by decide
theorem test_well_formed : (Instr.xchg (.mem (.a32 (.sib 3 .ecx .esp .none))) .ebx).wf = true := by decide

/-! Decoding: one word of each row, written out from R83 (ModRM bytes from R76, R78). -/

theorem test_decode_sensitive :
    decode false [0xFA] = .ok .cli 1 ∧ decode false [0xFB] = .ok .sti 1 ∧ decode false [0x9C] = .ok .pushf 1 ∧
    decode false [0x9D] = .ok .popf 1 ∧ decode false [0xCD, 0x21] = .ok (.intN 0x21) 2 ∧
    decode false [0xCF] = .ok .iret 1 := by decide

theorem test_decode_io :
    decode false [0xE4, 0x60] = .ok (.inAlImm 0x60) 2 ∧ decode false [0xE5, 0x61] = .ok (.inAxImm 0x61) 2 ∧
    decode false [0xEC] = .ok .inAlDx 1 ∧ decode false [0xED] = .ok .inAxDx 1 ∧
    decode false [0xE6, 0x80] = .ok (.outImmAl 0x80) 2 ∧ decode false [0xE7, 0x81] = .ok (.outImmAx 0x81) 2 ∧
    decode false [0xEE] = .ok .outDxAl 1 ∧ decode false [0xEF] = .ok .outDxAx 1 ∧ decode false [0x6C] = .ok .insb 1 ∧
    decode false [0x6D] = .ok .insw 1 ∧ decode false [0x6E] = .ok .outsb 1 ∧ decode false [0x6F] = .ok .outsw 1 := by
  decide

theorem test_decode_privileged :
    decode false [0x0F, 0x01, 0x1E, 0x00, 0x10] = .ok (.lidt (.a16 (.direct 0x1000))) 5 ∧
    decode false [0x0F, 0x01, 0x16, 0x00, 0x10] = .ok (.lgdt (.a16 (.direct 0x1000))) 5 ∧
    decode false [0x0F, 0x01, 0xF0] = .ok (.lmsw (.reg .eax)) 3 ∧
    decode false [0x0F, 0x20, 0xC0] = .ok (.movFromCr 0 .eax) 3 ∧
    decode false [0x0F, 0x22, 0xD9] = .ok (.movToCr 3 .ecx) 3 ∧ decode false [0x0F, 0x06] = .ok .clts 2 ∧
    decode false [0xF4] = .ok .hlt 1 ∧ decode false [0x0F, 0x08] = .ok .invd 2 ∧ decode false [0x0F, 0x09] = .ok .wbinvd 2 ∧
    decode false [0x0F, 0x01, 0x3E, 0x00, 0x10] = .ok (.invlpg (.a16 (.direct 0x1000))) 5 ∧
    decode false [0x0F, 0x21, 0xFA] = .ok (.movFromDr 7 .edx) 3 ∧ decode false [0x0F, 0x23, 0xC0] = .ok (.movToDr 0 .eax) 3 ∧
    decode false [0x0F, 0x24, 0xD8] = .ok (.movFromTr 3 .eax) 3 ∧
    decode false [0x0F, 0x26, 0xD8] = .ok (.movToTr 3 .eax) 3 := by decide

theorem test_decode_data :
    decode false [0x54] = .ok (.push .esp) 1 ∧ decode false [0x8B, 0xEC] = .ok (.movRRm .ebp (.reg .esp)) 2 ∧
    decode false [0x89, 0xE5] = .ok (.movRmR (.reg .ebp) .esp) 2 ∧
    decode false [0x87, 0x6E, 0x00] = .ok (.xchg (.mem (.a16 (.based .bp (.d8 0)))) .ebp) 3 ∧
    decode false [0x8E, 0xD8] = .ok (.movSregRm 3 (.reg .eax)) 2 ∧
    decode false [0x8C, 0xF0] = .ok (.movRmSreg (.reg .eax) 6) 2 ∧
    decode false [0x8B, 0x06, 0xFF, 0xFE] = .ok (.movRRm .eax (.mem (.a16 (.direct 0xFEFF)))) 4 ∧
    decode true [0x8B, 0x44, 0x8B, 0xFE] =
      .ok (.movRRm .eax (.mem (.a32 (.sib 2 .ecx .ebx (.d8 0xFE))))) 4 ∧
    decode true [0x89, 0x3C, 0x65, 1, 2, 3, 4] = .ok (.movRmR (.mem (.a32 (.sibDisp 1 .esp 0x04030201))) .edi) 7 := by decide

theorem test_decode_divide :
    decode false [0xF6, 0xF3] = .ok (.div8 (.reg .bl)) 2 ∧ decode false [0xF7, 0xF1] = .ok (.divW (.reg .ecx)) 2 ∧
    decode false [0xF6, 0xFB] = .ok (.idiv8 (.reg .bl)) 2 ∧ decode false [0xF7, 0xF9] = .ok (.idivW (.reg .ecx)) 2 := by
  decide

theorem test_decode_rotate :
    decode false [0xD0, 0xC4] = .ok (.rol8One (.reg .ah)) 2 ∧ decode false [0xD1, 0xC4] = .ok (.rolWOne (.reg .esp)) 2 ∧
    decode false [0xD2, 0xC0] = .ok (.rol8Cl (.reg .al)) 2 ∧ decode false [0xD3, 0xC0] = .ok (.rolWCl (.reg .eax)) 2 ∧
    decode false [0xC0, 0xC0, 5] = .ok (.rol8Imm (.reg .al) 5) 3 ∧ decode false [0xC1, 0xC0, 4] = .ok (.rolWImm (.reg .eax) 4) 3 ∧
    decode false [0xD0, 0xC8] = .ok (.ror8One (.reg .al)) 2 ∧ decode false [0xD1, 0xC8] = .ok (.rorWOne (.reg .eax)) 2 ∧
    decode false [0xD2, 0xC8] = .ok (.ror8Cl (.reg .al)) 2 ∧ decode false [0xD3, 0xC8] = .ok (.rorWCl (.reg .eax)) 2 ∧
    decode false [0xC0, 0xC8, 5] = .ok (.ror8Imm (.reg .al) 5) 3 ∧ decode false [0xC1, 0xC8, 4] = .ok (.rorWImm (.reg .eax) 4) 3 := by
  decide

theorem test_decode_rotate_through_carry :
    decode false [0xD0, 0xD0] = .ok (.rcl8One (.reg .al)) 2 ∧ decode false [0xD1, 0xD0] = .ok (.rclWOne (.reg .eax)) 2 ∧
    decode false [0xD2, 0xD0] = .ok (.rcl8Cl (.reg .al)) 2 ∧ decode false [0xD3, 0xD0] = .ok (.rclWCl (.reg .eax)) 2 ∧
    decode false [0xC0, 0xD0, 2] = .ok (.rcl8Imm (.reg .al) 2) 3 ∧ decode false [0xC1, 0xD0, 2] = .ok (.rclWImm (.reg .eax) 2) 3 ∧
    decode false [0xD0, 0xD8] = .ok (.rcr8One (.reg .al)) 2 ∧ decode false [0xD1, 0xD8] = .ok (.rcrWOne (.reg .eax)) 2 ∧
    decode false [0xD2, 0xD8] = .ok (.rcr8Cl (.reg .al)) 2 ∧ decode false [0xD3, 0xD8] = .ok (.rcrWCl (.reg .eax)) 2 ∧
    decode false [0xC0, 0xD8, 2] = .ok (.rcr8Imm (.reg .al) 2) 3 ∧ decode false [0xC1, 0xD8, 2] = .ok (.rcrWImm (.reg .eax) 2) 3 := by
  decide

theorem test_decode_shift :
    decode false [0xD0, 0xE0] = .ok (.shl8One (.reg .al)) 2 ∧ decode false [0xD1, 0xE0] = .ok (.shlWOne (.reg .eax)) 2 ∧
    decode false [0xD2, 0xE0] = .ok (.shl8Cl (.reg .al)) 2 ∧ decode false [0xD3, 0xE0] = .ok (.shlWCl (.reg .eax)) 2 ∧
    decode false [0xC0, 0xE0, 8] = .ok (.shl8Imm (.reg .al) 8) 3 ∧ decode false [0xC1, 0xE0, 4] = .ok (.shlWImm (.reg .eax) 4) 3 ∧
    decode false [0xD0, 0xE8] = .ok (.shr8One (.reg .al)) 2 ∧ decode false [0xD1, 0xE8] = .ok (.shrWOne (.reg .eax)) 2 ∧
    decode false [0xD2, 0xE8] = .ok (.shr8Cl (.reg .al)) 2 ∧ decode false [0xD3, 0xE8] = .ok (.shrWCl (.reg .eax)) 2 ∧
    decode false [0xC0, 0xE8, 1] = .ok (.shr8Imm (.reg .al) 1) 3 ∧ decode false [0xC1, 0xE8, 0xF] = .ok (.shrWImm (.reg .eax) 0xF) 3 ∧
    decode false [0xD0, 0xF8] = .ok (.sar8One (.reg .al)) 2 ∧ decode false [0xD1, 0xF8] = .ok (.sarWOne (.reg .eax)) 2 ∧
    decode false [0xD2, 0xF8] = .ok (.sar8Cl (.reg .al)) 2 ∧ decode false [0xD3, 0xF8] = .ok (.sarWCl (.reg .eax)) 2 ∧
    decode false [0xC0, 0xF8, 7] = .ok (.sar8Imm (.reg .al) 7) 3 ∧
    decode false [0xC1, 0xF8, 0x1F] = .ok (.sarWImm (.reg .eax) 0x1F) 3 := by decide

theorem test_decode_pfx :
    decode false [0x66] = .ok .opSizePfx 1 ∧ decode false [0x67] = .ok .addrSizePfx 1 ∧ decode false [0x26] = .ok .esPfx 1 ∧
    decode false [0x2E] = .ok .csPfx 1 ∧ decode false [0x36] = .ok .ssPfx 1 ∧ decode false [0x3E] = .ok .dsPfx 1 ∧
    decode false [0x64] = .ok .fsPfx 1 ∧ decode false [0x65] = .ok .gsPfx 1 ∧ decode false [0xF0] = .ok .lockPfx 1 ∧
    decode false [0xF2] = .ok .repnePfx 1 ∧ decode false [0xF3] = .ok .repPfx 1 := by decide

/-- What decoding rejects, by name: too few bytes, R81, D19 with its lockable forms (R190), ESC with its ModRM byte (R86) and
WAIT. A MOV of a control register whose mod is not 3 reads the displacement too (R84). -/
theorem test_decode_rejects :
    decode false [0x8B, 0x06, 0xFF] = .more ∧ decode false [0x0F, 0x00, 0xC0] = .unsupported ∧
    decode false [0x63, 0xC0] = .unsupported ∧ decode false [0xF4 + 1] = .noRule false ∧
    decode false [0xFF, 0x06, 0x00, 0x10] = .noRule true ∧ decode false [0x01, 0xC3] = .noRule false ∧
    decode false [0xD0, 0xF0] = .noRule false ∧ decode false [0xD9] = .more ∧ decode false [0xD9, 0x06, 0x00, 0x10] = .escOrWait ∧ decode false [0x9B] = .escOrWait ∧
    decode false [0x0F, 0x01, 0xD8] = .noRule false ∧
    decode false [0x0F, 0x20, 0x81, 0x34] = .more ∧
    decode false [0x0F, 0x20, 0x81, 0x34, 0x12] = .ok (.movFromCr 0 .ecx) 5 := by decide

/-! IOPL-sensitive instructions (95_test_vectors section 2.3). -/

theorem test_cli : look (go v86 [0xFA]) (fun t => (t.eflags.word, t.eip)) = some (0x23002, 0x101) := by decide +kernel

theorem test_sti :
    look (go { v86 with eflags := Eflags.ofWord 0x23002 } [0xFB]) (fun t => (t.eflags.word, t.intShadow)) =
      some (0x23202, true) := by decide +kernel

theorem test_pushf :
    look (go { v86 with eflags := Eflags.ofWord 0x27202 } [0x9C]) (fun t => (t.reg .esp, word t 0x200FE)) =
      some (0xFE, 0x7202) := by decide +kernel

theorem test_pushfd :
    look (goPfx { v86 with eflags := Eflags.ofWord 0x33202 } p66 [0x9C])
      (fun t => (t.reg .esp, dword t 0x200FC, t.eip)) = some (0xFC, 0x3202, 0x102) := by decide +kernel

theorem test_popf :
    look (go { v86 with eflags := Eflags.ofWord 0x23002, regs := { v86.regs with esp := 0xFE },
                        mem := poke v86.mem 0x200FE [0xFF, 0xFF] } [0x9D])
      (fun t => (t.reg .esp, t.eflags.word)) = some (0x100, 0x27FD7) := by decide +kernel

theorem test_popf_crosses :
    look (go { v86 with regs := { v86.regs with esp := 0xFFFF } } [0x9D])
      (fun t => (t.eip, dword t 0x7FE8, dword t 0x7FD8)) = some (0x403C00, 0xFFFF, 0) := by decide +kernel

/-- Program P3 run A. -/
theorem test_int21 :
    look (go (regs { v86 with regs := { v86.regs with esp := 0xFFE } } 0x4C00 0 0 0) [0xCD, 0x21])
      (fun t => ([0x7FFC, 0x7FF8, 0x7FF4, 0x7FF0, 0x7FEC, 0x7FE8, 0x7FE4, 0x7FE0, 0x7FDC].map (dword t),
        t.reg .esp, t.sel .ss, t.sel .cs, t.eip, t.cpl, t.eflags.word, t.sel .ds, t.reg .eax)) =
      some ([0, 0, 0x3000, 0x4000, 0x2000, 0xFFE, 0x23202, 0x1000, 0x102],
        0x7FDC, 0x10, 8, 0x401000, 0, 0x3002, 0, 0x4C00) := by decide +kernel

/-- Section 2.11: a gate with DPL 0, IOPL 0 (P3 run B), and a gate to 001BH. -/
theorem test_int_refused_by_gate :
    trapped (go v86 [0xCD, 0x22]) true = some (0x402000, 0x100, some 0x112) ∧
    trapped (go v86Iopl0 [0xCD, 0x21]) true = gp0 ∧
    trapped (go v86 [0xCD, 0x23]) true = some (0x402000, 0x100, some 0x18) := by decide +kernel

theorem test_iret :
    look (go { v86 with regs := { v86.regs with esp := 0xFA }, nmiMasked := true,
                        mem := poke v86.mem 0x200FA [0x02, 0x01, 0x00, 0x10, 0x02, 0x02] } [0xCF])
      (fun t => (t.sel .cs, t.eip, t.reg .esp, t.eflags.word, t.nmiMasked)) =
      some (0x1000, 0x102, 0x100, 0x23202, false) := by decide +kernel

/-- The 6 bytes of IRET cross offset 65535: #SS(0) (R106), before the page fault of the first of them (R225). -/
theorem test_iret_crosses :
    look (go { v86 with regs := { v86.regs with esp := 0xFFFC } } [0xCF])
      (fun t => (t.eip, dword t 0x7FE8, dword t 0x7FD8)) = some (0x403C00, 0xFFFC, 0) ∧
    (match iret8086 { v86 with ctrl := { v86.ctrl with cr0 := 0xE0000011 }, regs := { v86.regs with esp := 0xFFFC } } with
      | .error e => e
      | .ok _ => .refuse .noRule) = .exc excSS0 := by decide +kernel

/-- The frame of P3's continuation, consumed by the monitor's IRET (R107). -/
def frameBytes : List Byte :=
  [0x00, 0x02, 0, 0, 0x00, 0x0C, 0, 0, 0x02, 0x02, 0x02, 0, 0xF8, 0x0F, 0, 0, 0x00, 0x20, 0, 0, 0x00, 0x40, 0, 0,
   0x00, 0x30, 0, 0, 0, 0, 0, 0, 0, 0, 0, 0]

theorem test_iret_enters_v86 :
    look (go { monitor with mem := poke monitor.mem 0x7FDC frameBytes } [0xCF])
      (fun t => ([t.eip, (t.seg .cs).base, t.eflags.word, t.reg .esp], t.cpl, [t.sel .cs, t.sel .ss, t.sel .es, t.sel .ds])) =
      some ([0x200, 0xC000, 0x20202, 0xFF8], 3, [0xC00, 0x2000, 0x4000, 0x3000]) := by decide +kernel

/-- IOPL below 3: #GP(0) with the saved EIP at the instruction, for all six. -/
theorem test_sensitive_traps :
    ([[0xFA], [0xFB], [0x9C], [0x9D], [0xCD, 0x21], [0xCF]].map fun b => trapped (go v86Iopl0 b) true) =
      [gp0, gp0, gp0, gp0, gp0, gp0] := by decide +kernel

/-! I/O (95_test_vectors section 2.4). -/

theorem test_in_closed_port :
    trapped (go v86 [0xE4, 0x60]) true = gp0 ∧
    trapped (go (regs v86 0 0 0x3FF 0) [0xED]) true = gp0 ∧
    trapped (go (regs v86 0 0 0xFFFF 0) [0xED]) true = gp0 := by decide +kernel

theorem test_in_open_port :
    look (goPfx (regs v86Iopl0 0 0 0xCF8 0) p66 [0xED]) (fun t => (t.ioTrace.length, t.draws, t.eip)) = some (1, 1, 0x102) ∧
    look (go v86Iopl0 [0xE4, 0x61]) (fun t => (t.ioTrace.length, t.eip)) = some (1, 0x102) ∧
    look (go v86Iopl0 [0xE5, 0x61]) (fun t => (t.ioTrace.length, t.eip)) = some (1, 0x102) ∧
    look (go (regs v86Iopl0 0 0 0x3F8 0) [0xEC]) (fun t => (t.ioTrace.length, t.eip)) = some (1, 0x101) := by decide +kernel

theorem test_out :
    look (go (regs v86Iopl0 0x41 0 0x3F8 0) [0xEE]) (·.ioTrace) = some [.output 0x3F8 1 0x41] ∧
    look (go (regs v86Iopl0 0xFF1234 0 0 0) [0xE6, 0x80]) (·.ioTrace) = some [.output 0x80 1 0x34] ∧
    look (go (regs v86Iopl0 0xFF1234 0 0 0) [0xE7, 0x80]) (·.ioTrace) = some [.output 0x80 2 0x1234] ∧
    look (goPfx (regs v86Iopl0 0xFF1234 0 0x80 0) p66 [0xEF]) (·.ioTrace) = some [.output 0x80 4 0xFF1234] := by
  decide +kernel

theorem test_ins :
    look (go { v86 with regs := { v86.regs with edx := 0x300, edi := 0xFFFF } } [0x6C])
      (fun t => (t.reg .edi, t.written, t.ioTrace.length)) = some (0, [0x4FFFF], 1) ∧
    trapped (go { v86 with regs := { v86.regs with edx := 0x300, edi := 0xFFFF } } [0x6D]) true = gp0 := by decide +kernel

/-- REP OUTSB with CX = 3: one iteration a step, EIP stays until the last. -/
theorem test_rep_outs :
    look (goPfx { v86 with regs := { v86.regs with ecx := 3, edx := 0x378, esi := 0x10 },
                           mem := poke v86.mem 0x30010 [0xAA] } pF3 [0x6E])
      (fun t => (t.ioTrace, t.reg .esi, t.reg .ecx, t.eip, t.ilen)) =
      some ([.output 0x378 1 0xAA], 0x11, 2, 0x100, 0) ∧
    look (goPfx { v86 with regs := { v86.regs with ecx := 1, edx := 0x378, esi := 0x10 } } pF3 [0x6F])
      (fun t => (t.reg .esi, t.reg .ecx, t.eip)) = some (0x12, 0, 0x102) := by decide +kernel

/-! Privileged instructions (95_test_vectors section 2.5), and their effects at CPL 0. -/

theorem test_privileged_traps :
    ([[0x0F, 0x01, 0x1E, 0x00, 0x10], [0x0F, 0x01, 0x16, 0x00, 0x10], [0x0F, 0x01, 0xF0], [0x0F, 0x20, 0xC0],
      [0x0F, 0x22, 0xC0], [0x0F, 0x06], [0xF4], [0x0F, 0x08], [0x0F, 0x09], [0x0F, 0x01, 0x3E, 0x00, 0x10],
      [0x0F, 0x21, 0xC0], [0x0F, 0x23, 0xC0], [0x0F, 0x24, 0xD8], [0x0F, 0x26, 0xD8]].map
        fun b => trapped (go v86 b) true) = List.replicate 14 gp0 := by decide +kernel

theorem test_load_tables :
    look (go { monitor with mem := poke monitor.mem 0x1000 [0xFF, 0x03, 1, 2, 3, 4] } [0x0F, 0x01, 0x1D, 0x00, 0x10, 0, 0])
      (fun t => (t.idtr.limit, t.idtr.base, t.eip)) = some (0x3FF, 0x04030201, 0x401007) ∧
    look (go { monitor with mem := poke monitor.mem 0x1000 [0xFF, 0x03, 1, 2, 3, 4] } [0x0F, 0x01, 0x15, 0x00, 0x10, 0, 0])
      (fun t => (t.gdtr.limit, t.gdtr.base)) = some (0x3FF, 0x04030201) := by decide +kernel

theorem test_control_registers :
    look (go (regs monitor 0xF 0 0 0) [0x0F, 0x01, 0xF0]) (·.ctrl.cr0) = some 0x6000001F ∧
    look (go monitor [0x0F, 0x20, 0xC1]) (·.reg .ecx) = some 0x60000011 ∧
    look (go (regs monitor 0 0x5000 0 0) [0x0F, 0x22, 0xD9]) (·.ctrl.cr3) = some 0x5000 ∧
    look (go { monitor with ctrl := { monitor.ctrl with cr0 := 0x6000001B } } [0x0F, 0x06]) (·.ctrl.cr0) =
      some 0x60000013 := by decide +kernel

theorem test_debug_and_test_registers :
    look (go (regs monitor 0 0 0x1234 0) [0x0F, 0x23, 0xFA]) (·.dbg.dr7) = some 0x1234 ∧
    look (go { monitor with dbg := { monitor.dbg with dr6 := 5 } } [0x0F, 0x21, 0xF3]) (·.reg .ebx) = some 5 ∧
    look (go (regs monitor 0 0 0x1234 0) [0x0F, 0x26, 0xDA]) (·.tst.tr3) = some 0x1234 ∧
    look (go { monitor with tst := { monitor.tst with tr7 := 9 } } [0x0F, 0x24, 0xFB]) (·.reg .ebx) = some 9 := by
  decide +kernel

theorem test_system_control :
    look (go monitor [0xF4]) (fun t => (t.halted, t.eip)) = some (true, 0x401001) ∧
    look (go monitor [0x0F, 0x08]) (·.eip) = some 0x401002 ∧ look (go monitor [0x0F, 0x09]) (·.eip) = some 0x401002 ∧
    look (go monitor [0x0F, 0x01, 0x3D, 0, 0x10, 0, 0]) (·.eip) = some 0x401007 := by decide +kernel

/-! Stack and data (95_test_vectors section 2.6, section 2.2, program P1). -/

theorem test_push_sp :
    look (go v86 [0x54]) (fun t => (t.reg .esp, word t 0x200FE)) = some (0xFE, 0x100) ∧
    look (goPfx v86 p66 [0x54]) (fun t => (t.reg .esp, dword t 0x200FC)) = some (0xFC, 0x100) := by decide +kernel

theorem test_push_boundaries :
    (look (go { v86 with regs := { v86.regs with esp := 1 } } [0x50])
      fun t => (t.eip, dword t 0x7FE8)) = some (0x403C00, 1) ∧
    look (go { v86 with regs := { v86.regs with esp := 2 } } [0x50]) (·.reg .esp) = some 0 ∧
    look (go { v86 with regs := { v86.regs with esp := 0 } } [0x50]) (·.reg .esp) = some 0xFFFE ∧
    look (goPfx { v86 with regs := { v86.regs with esp := 3 } } p66 [0x50]) (·.eip) = some 0x403C00 := by decide +kernel

theorem test_mov_load :
    look (go { v86 with mem := poke v86.mem 0x3FFFE [0x34, 0x12] } [0x8B, 0x06, 0xFE, 0xFF]) (·.reg .eax) = some 0x1234 ∧
    trapped (go v86 [0x8B, 0x06, 0xFF, 0xFF]) true = gp0 := by decide +kernel

/-- [BP-1] with BP = 0 through SS; [EBX] above 65535; [EBX] at FFFEH. -/
theorem test_mov_addresses :
    look (go v86 [0x8B, 0x46, 0xFF]) (·.eip) = some 0x403C00 ∧
    trapped (goPfx (regs v86 0 0 0 0x10000) p67 [0x8B, 0x03]) true = gp0 ∧
    look (goPfx { regs v86 0 0 0 0xFFFE with mem := poke v86.mem 0x3FFFE [0xCD, 0xAB] } p67 [0x8B, 0x03]) (·.reg .eax) =
      some 0xABCD := by decide +kernel

theorem test_mov_store :
    look (go v86 [0x89, 0xE5]) (·.reg .ebp) = some 0x100 ∧
    look (go (regs v86 0xABCD 0 0 0) [0x89, 0x06, 0x10, 0x00]) (fun t => word t 0x30010) = some 0xABCD := by decide +kernel

theorem test_xchg :
    look (go { v86 with regs := { v86.regs with ebp := 0xFE }, mem := poke v86.mem 0x200FE [0xCD, 0xAB] } [0x87, 0x6E, 0x00])
      (fun t => (word t 0x200FE, t.reg .ebp)) = some (0xFE, 0xABCD) ∧
    look (go { v86 with regs := { v86.regs with ebp := 0x1111, esp := 0x2222 } } [0x87, 0xE5])
      (fun t => (t.reg .ebp, t.reg .esp)) = some (0x2222, 0x1111) := by decide +kernel

theorem test_load_segment :
    look (go (regs v86 0xB800 0 0 0) [0x8E, 0xD8]) (fun t => (t.sel .ds, (t.seg .ds).base)) = some (0xB800, 0xB8000) ∧
    look (go (regs v86 0x2000 0 0 0) [0x8E, 0xD0]) (fun t => (t.sel .ss, t.intShadow)) = some (0x2000, true) ∧
    trapped (go v86 [0x8E, 0xC8]) false = ud := by decide +kernel

theorem test_store_segment :
    look (go { v86 with segs := { v86.segs with ds := seg8086 0xB800 } } [0x8C, 0xD8]) (·.reg .eax) = some 0xB800 ∧
    trapped (go v86 [0x8C, 0xF0]) false = ud ∧
    look (goPfx v86 p66 [0x8C, 0xD8]) (fun t => (t.eip, t.draws)) = some (0x103, 1) := by decide +kernel

/-! Divide (95_test_vectors section 2.7). -/

theorem test_div8 :
    look (go (regs v86 0x64 0 0 7) [0xF6, 0xF3]) (·.reg .eax) = some 0x020E ∧
    look (go (regs v86 0xFE01 0 0 0xFF) [0xF6, 0xF3]) (·.reg .eax) = some 0xFF ∧
    trapped (go (regs v86 0x100 0 0 1) [0xF6, 0xF3]) false = some (0x403000, 0x100, none) ∧
    trapped (go (regs v86 0x1234 0 0 0) [0xF6, 0xF3]) false = some (0x403000, 0x100, none) := by decide +kernel

theorem test_div16 :
    look (go (regs v86 0 2 1 0) [0xF7, 0xF1]) (fun t => (t.reg .eax, t.reg .edx)) = some (0x8000, 0) ∧
    look (go (regs v86 0xFFFF 1 0 0) [0xF7, 0xF1]) (fun t => (t.reg .eax, t.reg .edx)) = some (0xFFFF, 0) ∧
    look (goPfx (regs v86 7 0x10000 3 0) p66 [0xF7, 0xF1]) (fun t => (t.reg .eax, t.reg .edx)) = some (0x30000, 7) := by
  decide +kernel

/-- -128 / 1 gives 80H and no exception (S9, program P6); -7 / 2 = -3 remainder -1; 128 / 1 is #DE. -/
theorem test_idiv8 :
    look (go (regs v86 0xFF80 0 0 1) [0xF6, 0xFB]) (·.reg .eax) = some 0x80 ∧
    look (go (regs v86 0xFFF9 0 0 2) [0xF6, 0xFB]) (·.reg .eax) = some 0xFFFD ∧
    trapped (go (regs v86 0x80 0 0 1) [0xF6, 0xFB]) false = some (0x403000, 0x100, none) := by decide +kernel

theorem test_idiv16 :
    look (go (regs v86 0x8000 1 0xFFFF 0) [0xF7, 0xF9]) (fun t => (t.reg .eax, t.reg .edx)) = some (0x8000, 0) ∧
    trapped (go (regs v86 0x8000 1 0 0) [0xF7, 0xF9]) false = some (0x403000, 0x100, none) ∧
    trapped (go (regs v86 0 0 0 0) [0xF7, 0xF9]) false = some (0x403000, 0x100, none) := by decide +kernel

/-! Shift and rotate (95_test_vectors section 2.8): result, CF, OF where it is defined, SF, ZF, PF of the shifts. -/

/-- AX and CF. -/
def axCf (o : Out) : Option (Word × Bool) := look o fun t => (t.reg16 .eax, t.eflags.cf)

/-- AX, CF and OF. -/
def axCfOf (o : Out) : Option (Word × Bool × Bool) := look o fun t => (t.reg16 .eax, t.eflags.cf, t.eflags.of)

/-- SF, ZF and PF. -/
def szp (o : Out) : Option (Bool × Bool × Bool) := look o fun t => (t.eflags.sf, t.eflags.zf, t.eflags.pf)

theorem test_rol :
    axCf (go (regs v86 0x81 9 0 0) [0xD2, 0xC0]) = some (0x03, true) ∧
    axCf (go (regs v86 0x81 8 0 0) [0xD2, 0xC0]) = some (0x81, true) ∧
    look (go (regs v86 0x81 0x20 0 0) [0xD2, 0xC0]) (fun t => (t.reg .eax, t.eflags)) = some (0x81, v86.eflags) ∧
    axCfOf (go (regs v86 0x8000 0 0 0) [0xD1, 0xC0]) = some (1, true, true) ∧
    axCf (go (regs v86 0x1234 0 0 0) [0xC1, 0xC0, 4]) = some (0x2341, true) := by decide +kernel

theorem test_rol_other_forms :
    axCfOf (go (regs v86 0x81 0 0 0) [0xD0, 0xC0]) = some (3, true, true) ∧
    axCf (go (regs v86 0x1234 4 0 0) [0xD3, 0xC0]) = some (0x2341, true) ∧
    axCf (go (regs v86 0x81 0 0 0) [0xC0, 0xC0, 9]) = some (3, true) := by decide +kernel

theorem test_ror :
    axCfOf (go (regs v86 1 0 0 0) [0xD1, 0xC8]) = some (0x8000, true, true) ∧
    axCfOf (go (regs v86 0x81 0 0 0) [0xD0, 0xC8]) = some (0xC0, true, false) ∧
    axCf (go (regs v86 0x1234 0 0 0) [0xC1, 0xC8, 4]) = some (0x4123, false) := by decide +kernel

theorem test_ror_other_forms :
    axCf (go (regs v86 0x81 1 0 0) [0xD2, 0xC8]) = some (0xC0, true) ∧
    axCf (go (regs v86 0x1234 4 0 0) [0xD3, 0xC8]) = some (0x4123, false) ∧
    axCf (go (regs v86 0x81 0 0 0) [0xC0, 0xC8, 4]) = some (0x18, false) := by decide +kernel

theorem test_rcl :
    axCfOf (go (regs v86 0x80 0 0 0) [0xD0, 0xD0]) = some (0, true, true) ∧
    axCf (go (regs v86 0x80 9 0 0) [0xD2, 0xD0]) = some (0x80, false) ∧
    axCf (go (carry (regs v86 0x55 0 0 0) true) [0xC0, 0xD0, 2]) = some (0x56, true) ∧
    axCfOf (go (carry (regs v86 0x4000 0 0 0) true) [0xD1, 0xD0]) = some (0x8001, false, true) := by decide +kernel

theorem test_rcl_other_forms :
    axCf (go (regs v86 0x8000 0x11 0 0) [0xD3, 0xD0]) = some (0x8000, false) ∧
    axCf (go (carry (regs v86 0x1234 0 0 0) true) [0xC1, 0xD0, 4]) = some (0x2348, true) := by decide +kernel

theorem test_rcr :
    axCfOf (go (regs v86 1 0 0 0) [0xD0, 0xD8]) = some (0, true, false) ∧
    axCfOf (go (carry (regs v86 1 0 0 0) true) [0xD0, 0xD8]) = some (0x80, true, true) ∧
    axCf (go (carry (regs v86 0x55 0 0 0) true) [0xC0, 0xD8, 2]) = some (0xD5, false) := by decide +kernel

theorem test_rcr_other_forms :
    axCfOf (go (carry (regs v86 2 0 0 0) true) [0xD1, 0xD8]) = some (0x8001, false, true) ∧
    axCf (go (regs v86 0x81 9 0 0) [0xD2, 0xD8]) = some (0x81, false) ∧
    axCf (go (regs v86 0x1234 0x11 0 0) [0xD3, 0xD8]) = some (0x1234, false) ∧
    axCf (go (carry (regs v86 0x1234 0 0 0) true) [0xC1, 0xD8, 4]) = some (0x9123, false) := by decide +kernel

theorem test_shl :
    axCfOf (go (regs v86 1 0x21 0 0) [0xD3, 0xE0]) = some (2, false, false) ∧
    look (go (regs v86 1 0x20 0 0) [0xD3, 0xE0]) (fun t => (t.reg .eax, t.eflags)) = some (1, v86.eflags) ∧
    axCfOf (go (regs v86 0x80 0 0 0) [0xD0, 0xE0]) = some (0, true, true) ∧
    szp (go (regs v86 0x80 0 0 0) [0xD0, 0xE0]) = some (false, true, true) ∧
    axCfOf (go (regs v86 0x4000 0 0 0) [0xD1, 0xE0]) = some (0x8000, false, true) ∧
    szp (go (regs v86 0x4000 0 0 0) [0xD1, 0xE0]) = some (true, false, true) := by decide +kernel

theorem test_shl_other_forms :
    axCf (go (regs v86 0x1234 0 0 0) [0xC1, 0xE0, 4]) = some (0x2340, true) ∧
    szp (go (regs v86 0x1234 0 0 0) [0xC1, 0xE0, 4]) = some (false, false, false) ∧
    look (go (regs v86 0xFF 0 0 0) [0xC0, 0xE0, 8]) (fun t => (t.reg .eax, t.eflags.zf, t.draws)) = some (0, true, 3) ∧
    axCf (go (regs v86 0x81 1 0 0) [0xD2, 0xE0]) = some (2, true) := by decide +kernel

theorem test_shr :
    axCfOf (go (regs v86 0x81 0 0 0) [0xD0, 0xE8]) = some (0x40, true, true) ∧
    szp (go (regs v86 0x81 0 0 0) [0xD0, 0xE8]) = some (false, false, false) ∧
    axCf (go (regs v86 0x8000 0 0 0) [0xC1, 0xE8, 0xF]) = some (1, false) ∧
    look (go (regs v86 0x8000 0 0 0) [0xC1, 0xE8, 0x10]) (fun t => (t.reg .eax, t.eflags.zf)) = some (0, true) ∧
    axCf (go (regs v86 0x1234 0 0 0) [0xC1, 0xE8, 4]) = some (0x123, false) := by decide +kernel

theorem test_shr_other_forms :
    axCfOf (go (regs v86 0x8001 0 0 0) [0xD1, 0xE8]) = some (0x4000, true, true) ∧
    axCf (go (regs v86 0x81 1 0 0) [0xD2, 0xE8]) = some (0x40, true) ∧
    axCf (go (regs v86 0x1234 4 0 0) [0xD3, 0xE8]) = some (0x123, false) ∧
    axCf (go (regs v86 0x81 0 0 0) [0xC0, 0xE8, 4]) = some (8, false) := by decide +kernel

theorem test_sar :
    axCf (go (regs v86 0x8000 0 0 0) [0xC1, 0xF8, 0x3F]) = some (0xFFFF, true) ∧
    szp (go (regs v86 0x8000 0 0 0) [0xC1, 0xF8, 0x1F]) = some (true, false, true) ∧
    axCf (go (regs v86 0x4000 0 0 0) [0xC1, 0xF8, 0x1F]) = some (0, false) ∧
    axCfOf (go (regs v86 0x80 0 0 0) [0xD0, 0xF8]) = some (0xC0, false, false) ∧
    axCf (go (regs v86 0x7F 0 0 0) [0xC0, 0xF8, 7]) = some (0, true) := by decide +kernel

theorem test_sar_other_forms :
    axCfOf (go (regs v86 0x8001 0 0 0) [0xD1, 0xF8]) = some (0xC000, true, false) ∧
    axCf (go (regs v86 0xFF 1 0 0) [0xD2, 0xF8]) = some (0xFF, true) ∧
    axCf (go (regs v86 0x1234 4 0 0) [0xD3, 0xF8]) = some (0x123, false) := by decide +kernel

/-- A shift of a byte in memory. -/
theorem test_shift_memory :
    look (go { v86 with mem := poke v86.mem 0x30010 [0x81, 0x55] } [0xD0, 0x26, 0x10, 0x00])
      (fun t => (word t 0x30010, t.eflags.cf)) = some (0x5502, true) := by decide +kernel

/-! Prefix bytes, LOCK, instruction length (95_test_vectors sections 2.9, 2.10). -/

theorem test_pfx_bytes_record :
    look (go v86 [0x66]) (fun t => (t.pfx.opSize, t.ilen, t.eip)) = some (true, 1, 0x100) ∧
    look (go v86 [0x67]) (·.pfx.addrSize) = some true ∧
    ([0x26, 0x2E, 0x36, 0x3E, 0x64, 0x65].map fun b => look (go v86 [b]) (·.pfx.seg)) =
      [some (some .es), some (some .cs), some (some .ss), some (some .ds), some (some .fs), some (some .gs)] ∧
    look (go v86 [0xF0]) (·.pfx.lock) = some true ∧ look (go v86 [0xF2]) (·.pfx.rep) = some (some .repne) ∧
    look (go v86 [0xF3]) (·.pfx.rep) = some (some .rep) := by decide +kernel

theorem test_pfx_bytes_select :
    look (goPfx { v86 with mem := poke v86.mem 0x40010 [1, 2, 3, 4] } { p66 with seg := some .es } [0x8B, 0x06, 0x10, 0x00])
      (·.reg .eax) = some 0x04030201 ∧
    trapped (goPfx v86 { Pfx.none with seg := some .es } [0x8B, 0x06, 0xFF, 0xFF]) true = gp0 ∧
    look (goPfx v86 { Pfx.none with seg := some .ss } [0x8B, 0x06, 0xFF, 0xFF]) (·.eip) = some 0x403C00 := by decide +kernel

theorem test_lock :
    trapped (goPfx { v86 with regs := { v86.regs with ebp := 0x10 } } pF0 [0x87, 0xE5]) false = ud ∧
    trapped (goPfx v86 pF0 [0x8B, 0x06, 0x00, 0x10]) false = ud ∧ trapped (goPfx v86 pF0 [0x40]) false = ud ∧
    trapped (goPfx v86 pF0 [0x01, 0xC3]) false = ud ∧ trapped (goPfx v86 pF0 [0xFA]) false = ud ∧
    refusal (goPfx v86 pF0 [0xFF, 0x06, 0x00, 0x10]) = some .noRule := by decide +kernel

theorem test_lock_xchg :
    look (goPfx { v86 with regs := { v86.regs with ebp := 0xFE }, mem := poke v86.mem 0x200FE [0xCD, 0xAB] } pF0
      [0x87, 0x6E, 0x00]) (fun t => (word t 0x200FE, t.reg .ebp, t.eip)) = some (0xFE, 0xABCD, 0x104) := by decide +kernel

/-- 15 prefix bytes and then another byte: #GP(0) with the saved EIP at the first; a second byte past offset FFFFH. -/
theorem test_length_limit :
    trapped (step { v86 with ilen := 15, pfx := p66 }) true = gp0 ∧
    trapped (go { v86 with eip := 0xFFFF } [0x8B]) true = some (0x402000, 0xFFFF, some 0) ∧
    trapped (step { v86 with eip := 0x10000 }) true = some (0x402000, 0x10000, some 0) := by decide +kernel

/-! Delivery and boundaries (95_test_vectors section 2.11). -/

theorem test_external_interrupt :
    look (step { v86 with irqs := [8] }) (fun t => (t.eip, t.eflags.intf, t.irqs)) = some (0x403800, true, []) ∧
    look (go { v86 with irqs := [8], eflags := Eflags.ofWord 0x23002 } [0xFA]) (·.irqs) = some [8] := by decide +kernel

theorem test_nmi :
    look (step { v86 with nmiPending := true, eflags := Eflags.ofWord 0x23002 }) (fun t => (t.eip, t.nmiMasked)) =
      some (0x403200, true) ∧
    look (go { v86 with nmiPending := true, nmiMasked := true } [0xFA]) (·.eip) = some 0x101 := by decide +kernel

theorem test_single_step :
    look (go { v86 with eflags := Eflags.ofWord 0x23302 } [0xFA]) (·.trapPending) = some true ∧
    look (step { v86 with eflags := Eflags.ofWord 0x23302, trapPending := true, irqs := [8] })
      (fun t => (t.eip, dword t 0x7FE4, t.eflags.tf, t.irqs)) = some (0x403100, 0x23302, false, [8]) := by decide +kernel

/-- INT n that began with TF = 1 completes without a fault, so vector 1 is to be delivered after it (R215). -/
theorem test_single_step_int :
    look (go { v86 with eflags := Eflags.ofWord 0x23302 } [0xCD, 0x21]) (fun t => (t.trapPending, t.eflags.tf)) =
      some (true, false) ∧
    look (go { v86 with eflags := Eflags.ofWord 0x23302 } [0xCD, 0x22]) (·.trapPending) = some false := by decide +kernel

/-- A pending floating-point error: #MF at the ESC, before the #UD of its LOCK prefix byte (R225), with the EIP of the prefix
byte (R193); after the fetch of its ModRM byte (R84, R86), which fails past offset FFFFH. -/
theorem test_floating_point_error :
    look (goPfx { v86 with fpPending := true, mem := poke v86.mem 0x7080 [0, 0x40, 8, 0, 0, 0x8E, 0x40, 0] } pF0
      [0xD9, 0xC0]) (fun t => (t.eip, dword t 0x7FDC, t.fpPending)) = some (0x404000, 0x100, false) ∧
    trapped (goPfx v86 pF0 [0xD9, 0xC0]) false = ud ∧
    refusal (go v86 [0xD9, 0xC0]) = some .floatingPoint ∧
    trapped (go { v86 with eip := 0xFFFF, fpPending := true } [0xD9]) true = some (0x402000, 0xFFFF, some 0) := by
  decide +kernel

/-- R231: an SS0 that names a code segment, or DPL 2, or a null selector, is refused; R206: a target that is data is #GP. -/
theorem test_failures_of_delivery :
    ([0x08, 0x1C, 0x00].map fun b : Byte =>
      refusal (go { v86 with mem := poke v86.mem 0x6008 [b] } [0xCD, 0x21])) =
      [some .deliveryFailure, some .deliveryFailure, some .deliveryFailure] ∧
    trapped (go { v86 with mem := poke v86.mem 0x710A [0x10] } [0xCD, 0x21]) true = some (0x402000, 0x100, some 0x10) := by
  decide +kernel

/-- A store into the next instruction's bytes, fetched without a control transfer, is refused (R60); a page fault leaves the
address in CR2 and the error code 6 of a user write to a page that is not present (R232, R51). -/
theorem test_stale_fetch_and_page_fault :
    refusal (go { v86 with written := [0x10100] } [0xFA]) = some .staleFetch ∧
    look (execMovRmR (.mem (.a16 (.direct 0x10))) .eax
        { v86 with
          ctrl := { v86.ctrl with cr0 := 0xE0000011, cr3 := 0x5000 }
          pageMap := [6, 7, 8].map fun p : Nat =>
            { cr3 := 0x5000, page := BitVec.ofNat 20 p, frame := BitVec.ofNat 20 p
              allowed := [(.read, .supervisor), (.write, .supervisor)] } })
      (fun t => (t.eip, t.ctrl.cr2, dword t 0x7FD8)) = some (0x403E00, 0x30010, 6) := by decide +kernel

/-! Reset (R35, R250). -/

theorem test_reset_runs_a_loaded_word :
    look (step (State.reset.withFetchWord 8 0xFA)) (fun t => (t.eip, t.sel .cs)) = some (0xFFF1, 0xF000) ∧
    decodeTableWord 24 0x18010F = some (.lidt (.a16 (.based .bxsi .none))) := by decide +kernel

/-! Witnesses: for each obligation with hypotheses, states and operands that meet them all, each clause at a boundary value of
its range. -/

/-- An outcome that answers something to `look` is a next state. -/
theorem next_of {o : Out} (h : (look o fun _ => ()) = some ()) : ∃ t, o = .next t := by
  cases o with
  | next t => exact ⟨t, rfl⟩
  | fault r => cases h
  | refused r => cases h

/-- A state with bytes at CS:EIP. -/
def code (s : State) (bytes : List Byte) : State := { s with mem := poke s.mem ((s.seg .cs).base + s.eip).toNat bytes }

/-- A state after prefix bytes. -/
def after (s : State) (p : Pfx) : State := { s with ilen := 1, pfx := p }

/-- A state with a stack pointer. -/
def sp (s : State) (esp : Dword) : State := { s with regs := { s.regs with esp := esp } }

/-- A state with index, count and port registers. -/
def strRegs (s : State) (ecx edx esi edi : Dword) : State :=
  { s with regs := { s.regs with ecx := ecx, edx := edx, esi := esi, edi := edi } }

/-- The frame of an event on the stack of `v86`'s TSS. -/
def framed (s : State) (ev : Event) : State × Dword :=
  match pushFrame s (flat 0 false) 0x8000 (frameWords s ev) with
  | .ok x => x
  | .error _ => (s, 0)

theorem witness_StepKeepsMemoryCanonical :
    memoryOk (code v86 [0x50]) = true ∧ ∃ t, step (code v86 [0x50]) = .next t :=
  ⟨by decide +kernel, next_of (by decide +kernel)⟩

theorem witness_StepKeepsModeLegal :
    modeOk (code v86 [0xCD, 0x21]) = true ∧ segmentsOk (code v86 [0xCD, 0x21]) = true ∧
      ∃ t, step (code v86 [0xCD, 0x21]) = .next t :=
  ⟨by decide +kernel, by decide +kernel, next_of (by decide +kernel)⟩

theorem witness_StepKeepsLengthBound :
    lengthOk { v86 with ilen := 15, iterating := some { op := .insb, ilen := 15, pfx := Pfx.none } } = true ∧
      lengthOk { v86 with ilen := 15 } = true ∧ ∃ t, step { v86 with ilen := 15 } = .next t :=
  ⟨by decide +kernel, by decide +kernel, next_of (by decide +kernel)⟩

theorem witness_DecodeEncodeRoundTrip :
    (Instr.rolWImm (.mem (.a32 (.sibDisp 3 .esp 0xFFFFFFFF))) 0xFF).wf = true ∧
    (Instr.rolWImm (.mem (.a32 (.sibDisp 3 .esp 0xFFFFFFFF))) 0xFF).fitsAddressSize true = true ∧
    (Instr.lidt (.a16 (.based .bp (.d8 0)))).wf = true ∧ (Instr.lidt (.a16 (.based .bp (.d8 0)))).fitsAddressSize false = true ∧
    Instr.cli.wf = true ∧ Instr.cli.fitsAddressSize true = true := by decide

/-- REP INSB, two bytes at 1000H:0100H, before its second iteration: it stored over its own first byte. -/
def overItself : State :=
  { strRegs v86 1 0x300 0 0x101 with
    mem := poke v86.mem 0x10100 [0x00, 0x6C]
    written := [0x10100]
    segs := { v86.segs with es := seg8086 0x1000 }
    iterating := some { op := .insb, ilen := 2, pfx := pF3 } }

/-- R133, R84: the loop goes on with the instruction that was decoded, and its last iteration completes it. -/
theorem test_rep_over_its_own_bytes :
    look (step overItself) (fun t => (t.eip, t.reg .ecx, t.reg .edi, t.iterating.isNone, t.written)) =
      some (0x102, 0, 0x102, true, [0x10101, 0x10100]) ∧
    look (step { overItself with regs := { overItself.regs with ecx := 2 } })
        (fun t => (t.eip, t.reg .ecx, t.ilen, t.iterating)) = some (0x100, 1, 0, overItself.iterating) := by decide +kernel

/-- R133: an interrupt between two iterations saves the address of the first prefix byte, and the handler begins anew. -/
theorem test_rep_interrupted :
    look (step { overItself with irqs := [0x21] }) (fun t => (t.mem.readAll [0x7FDC, 0x7FDD, 0x7FDE, 0x7FDF], t.iterating)) =
      some (0x100, none) := by decide +kernel

theorem witness_StepRunsDecoded :
    quiet overItself = true ∧ overItself.iterating = some { op := .insb, ilen := 2, pfx := pF3 } ∧ v86.iterating = none ∧
    quiet (code v86 [0xCD, 0x21]) = true ∧
      decode (code v86 [0xCD, 0x21]).addr32 (code v86 [0xCD, 0x21]).window.1 = .ok (.intN 0x21) 2 ∧
      quiet (after (code v86 [0xF0, 0xFA]) pF0) = true ∧
      decode (after (code v86 [0xF0, 0xFA]) pF0).addr32 (after (code v86 [0xF0, 0xFA]) pF0).window.1 = .ok .cli 1 := by
  decide +kernel

theorem witness_StepExecutesEncoded :
    quiet (code v86 [0xCD, 0x21]) = true ∧ (code v86 [0xCD, 0x21]).iterating = none ∧ (Instr.intN 0x21).wf = true ∧
      (Instr.intN 0x21).fitsAddressSize (code v86 [0xCD, 0x21]).addr32 = true ∧
      CodeAt (code v86 [0xCD, 0x21]) (code v86 [0xCD, 0x21]).ilen (encode (.intN 0x21)) := by
  simp only [encode, CodeAt]
  decide +kernel

/-- Nothing more can be fetched after 15 bytes; a first byte past FFFFH; the second byte of 8B C3 at FFFFH (R47); a sixteenth byte
of 2E x 13, 87 6E 00 (R70); a byte written since the last control transfer; a first byte on a page that is not present. -/
theorem witness_FetchLimitFaults :
    (quiet { v86 with ilen := 15 } = true ∧ CodeAt { v86 with ilen := 15 } 15 [] ∧ decode v86.addr32 [] = .more) ∧
    v86.iterating = none ∧ (quiet { v86 with eip := 0x10000 } = true ∧ v86.vm = true ∧ 0xFFFF < (0x10000 + BitVec.ofNat 32 0 : Dword).toNat) ∧
    (quiet (code { v86 with eip := 0xFFFF } [0x8B, 0xC3]) = true ∧
      CodeAt (code { v86 with eip := 0xFFFF } [0x8B, 0xC3]) 0 [0x8B] ∧ decode v86.addr32 [0x8B] = .more ∧
      0xFFFF < (0xFFFF + BitVec.ofNat 32 1 : Dword).toNat) ∧
    (CodeAt { v86 with ilen := 13, mem := poke v86.mem 0x1010D [0x87, 0x6E, 0x00] } 13 [0x87, 0x6E] ∧
      decode v86.addr32 [0x87, 0x6E] = .more ∧ 15 ≤ 13 + 2) ∧
    (linToPhys v86 ((v86.seg .cs).base + 0x101) .fetch .user = .ok 0x10101 ∧
      CodeAt (code { v86 with written := [0x10101] } [0xCD]) 0 [0xCD] ∧ decode v86.addr32 [0xCD] = .more) ∧
    (quiet { v86 with ctrl := { v86.ctrl with cr0 := 0xE0000011, cr3 := 0x7000 } } = true ∧
      linToPhys { v86 with ctrl := { v86.ctrl with cr0 := 0xE0000011, cr3 := 0x7000 } }
        ((v86.seg .cs).base + (v86.eip + BitVec.ofNat 32 0)) .fetch .user =
          .error (.exc (excPF 0x10100 false .fetch .user))) := by
  simp only [CodeAt]
  decide +kernel

/-- 0F 00 /5, an ESC with and without a pending error. -/
theorem witness_OpcodesOutsideTheTable :
    (parseRm false 0xE8 []).isSome = true ∧ (regField 0xE8).toNat ≤ 5 ∧ (parseRm true 0x80 [0, 0, 0, 0]).isSome = true ∧
    (code v86 [0x0F, 0x00, 0xE8]).iterating = none ∧ quiet (code v86 [0x0F, 0x00, 0xE8]) = true ∧ v86.vm = true ∧ v86.pfx.lock = false ∧
      decode v86.addr32 (code v86 [0x0F, 0x00, 0xE8]).window.1 = .unsupported ∧
    quiet (code { v86 with fpPending := true } [0xDF, 0xC0]) = true ∧
      decode v86.addr32 (code { v86 with fpPending := true } [0xDF, 0xC0]).window.1 = .escOrWait ∧ v86.fpPending = false ∧
    (∀ p ∈ [([0x63, 0xC0], Decoded.unsupported), ([0x9B], .escOrWait), ([0x01, 0x06, 0x00, 0x10], .noRule true),
        ([0x01, 0xC0], .noRule false), ([0x90], .noRule false), ([0x0F, 0xBA, 0x2E, 0x00, 0x10, 0x01], .noRule true),
        ([0x83, 0x3E, 0x00, 0x10, 0x01], .noRule false)],
      quiet (code { v86 with pfx := { v86.pfx with lock := true } } p.1) = true ∧
        decode v86.addr32 (code { v86 with pfx := { v86.pfx with lock := true } } p.1).window.1 = p.2) := by
  decide +kernel

theorem witness_PrefixBytesSelectSizesAndSegment :
    v86.vm = true ∧ v86.pfx.seg = none ∧ (after v86 { p67 with seg := some .gs }).vm = true ∧
      (after v86 { p67 with seg := some .gs }).pfx.seg = some .gs := by decide +kernel

theorem witness_LockFaultsUnlessLockable :
    (after v86 pF0).pfx.lock = true ∧ (∀ m r, Instr.xchg (.reg .ebp) .esp ≠ .xchg (.mem m) r) ∧
      Instr.xchg (.reg .ebp) .esp ∉ [.opSizePfx, .addrSizePfx, .esPfx, .csPfx, .ssPfx, .dsPfx, .fsPfx, .gsPfx, .lockPfx,
        .repnePfx, .repPfx] :=
  ⟨by decide +kernel, fun m r h => (by cases h), by decide⟩

theorem witness_SensitiveInstructionsTrap :
    ∀ k : BitVec 2, k < 3 → ({ v86 with eflags := { v86.eflags with iopl := k } } : State).pfx.lock = false ∧
      ({ v86 with eflags := { v86.eflags with iopl := k } } : State).vm = true ∧
      ({ v86 with eflags := { v86.eflags with iopl := k } } : State).iopl < 3 := by decide +kernel

theorem witness_CliStiResult :
    v86.pfx.lock = false ∧ v86.vm = true ∧ ¬ v86.iopl < 3 ∧ v86Iopl0.pfx.lock = false ∧ v86Iopl0.vm = true ∧
      v86Iopl0.iopl < 3 := by decide +kernel

/-- SP 0 wraps to FFFEH; a doubleword with SP 4. -/
theorem witness_PushfPopfResult :
    (sp v86 0).pfx.lock = false ∧ (sp v86 0).vm = true ∧ (sp v86 0).iopl = 3 ∧
      Accesses (sp v86 0) .write .ss (((sp v86 0).reg16 .esp - BitVec.ofNat 16 (sp v86 0).opBytes).setWidth 32)
        (sp v86 0).opBytes [0x2FFFE, 0x2FFFF] ∧
      (after (sp v86 4) p66).op32 = true ∧
      Accesses (after (sp v86 4) p66) .write .ss
        (((after (sp v86 4) p66).reg16 .esp - BitVec.ofNat 16 (after (sp v86 4) p66).opBytes).setWidth 32)
        (after (sp v86 4) p66).opBytes [0x20000, 0x20001, 0x20002, 0x20003] := by
  simp only [Accesses]
  decide +kernel

theorem witness_PushfPopfResult_popf :
    (sp v86 0xFFFE).pfx.lock = false ∧ (sp v86 0xFFFE).vm = true ∧ (sp v86 0xFFFE).iopl = 3 ∧
      Accesses (sp v86 0xFFFE) .read .ss (((sp v86 0xFFFE).reg16 .esp).setWidth 32) (sp v86 0xFFFE).opBytes
        [0x2FFFE, 0x2FFFF] := by
  simp only [Accesses]
  decide +kernel

/-- The event of INT n in `v86`, two bytes long. -/
def intEvent (n : Byte) : Event := { vector := n, err := none, ext := false, ret := 0x102, trap := false }

/-- After the two bytes of INT n were fetched. -/
def atInt : State := { v86 with ilen := 2 }

/-- Gate 21H. -/
def gate21 : Gate := { kind := .int32, sel := 8, offset := 0x401000, dpl := 3, present := true }

/-- A gate of `v86` is open. -/
theorem gate_open (s : State) (ev : Event) (g : Gate) (hg : readGate s ev.vector = .ok g) (hp : g.present = true)
    (hk : g.kind = .trap32 ∨ g.kind = .int32) (ht : s.segDesc g.sel = some (flat 0 true)) (h286 : s.tr.is286 = false)
    (h0 : readTss s 0x04 4 = .ok 0x8000) (h8 : readTss s 0x08 2 = .ok 0x10) (hs : s.segDesc 0x10 = some (flat 0 false))
    (hf : (pushFrame s (flat 0 false) 0x8000 (frameWords s ev)).isOk = true) :
    GateOpen s ev g (flat 0 true) 0x10 (flat 0 false) 0x8000 (framed s ev).1 (framed s ev).2 where
  gate := hg
  present := hp
  kind := hk
  target := ht
  isCode := rfl
  nonconforming := rfl
  level0 := rfl
  tss := h286
  readsEsp0 := h0
  readsSs0 := h8
  stackSeg := hs
  stackValid := by decide
  frame := by
    unfold framed
    cases h : pushFrame s (flat 0 false) 0x8000 (frameWords s ev) with
    | ok x => rfl
    | error e => rw [h] at hf; cases hf

theorem witness_IntNResult :
    atInt.pfx.lock = false ∧ atInt.vm = true ∧ atInt.iopl = 3 ∧ readGate atInt 0x21 = .ok gate21 ∧ gate21.dpl = 3 ∧
      GateOpen atInt
        { vector := 0x21, err := none, ext := false, ret := atInt.eip + BitVec.ofNat 32 atInt.ilen
          trap := atInt.eflags.tf } gate21
        (flat 0 true) 0x10 (flat 0 false) 0x8000 (framed atInt (intEvent 0x21)).1 (framed atInt (intEvent 0x21)).2 ∧
      readGate atInt 0x22 = .ok { gate21 with offset := 0x401100, dpl := 0 } ∧
      ({ gate21 with offset := 0x401100, dpl := 0 } : Gate).dpl < 3 :=
  ⟨by decide +kernel, by decide +kernel, by decide +kernel, by decide +kernel, by decide +kernel,
    gate_open atInt (intEvent 0x21) gate21 (by decide +kernel) rfl (.inr rfl) (by decide +kernel) rfl (by decide +kernel)
      (by decide +kernel) (by decide +kernel) (by decide +kernel), by decide +kernel, by decide +kernel⟩

/-- A 16-bit frame at the end of the stack segment; a 32-bit one whose EIP image is FFFFH or 10000H. -/
theorem witness_IretInV86Result :
    (sp v86 0xFFFA).pfx.lock = false ∧ (sp v86 0xFFFA).vm = true ∧ (sp v86 0xFFFA).iopl = 3 ∧
      Accesses (sp v86 0xFFFA) .read .ss (((sp v86 0xFFFA).reg16 .esp).setWidth 32) (sp v86 0xFFFA).opBytes
        [0x2FFFA, 0x2FFFB] ∧
      Accesses (sp v86 0xFFFA) .read .ss
        (((sp v86 0xFFFA).reg16 .esp).setWidth 32 + BitVec.ofNat 32 (sp v86 0xFFFA).opBytes) (sp v86 0xFFFA).opBytes
        [0x2FFFC, 0x2FFFD] ∧
      Accesses (sp v86 0xFFFA) .read .ss
        (((sp v86 0xFFFA).reg16 .esp).setWidth 32 + BitVec.ofNat 32 (2 * (sp v86 0xFFFA).opBytes)) (sp v86 0xFFFA).opBytes
        [0x2FFFE, 0x2FFFF] ∧
      (after v86 p66).opBytes = 4 ∧ ¬ 0xFFFF < ((poke v86.mem 0x20100 [0xFF, 0xFF, 0, 0]).readAll
        [0x20100, 0x20101, 0x20102, 0x20103]).toNat ∧
      0xFFFF < ((poke v86.mem 0x20100 [0, 0, 1, 0]).readAll [0x20100, 0x20101, 0x20102, 0x20103]).toNat ∧
      (sp v86 0xFFFB).pfx.lock = false ∧ (sp v86 0xFFFB).vm = true ∧ (sp v86 0xFFFB).iopl = 3 ∧
      0x10000 < ((sp v86 0xFFFB).reg16 .esp).toNat + 3 * (sp v86 0xFFFB).opBytes := by
  simp only [Accesses]
  decide +kernel

/-- The doublewords of P3's frame. -/
def frameWord (k : Nat) : Dword := [0x200, 0xC00, 0x20202, 0xFF8, 0x2000, 0x4000, 0x3000, 0, 0].getD k 0

/-- The monitor with P3's frame on its stack. -/
def monitorFrame : State := { monitor with mem := poke monitor.mem 0x7FDC frameBytes }

theorem witness_IretEntersV86 :
    monitorFrame.pfx.lock = false ∧ monitorFrame.mode = .prot ∧ monitorFrame.cpl = 0 ∧ monitorFrame.eflags.nt = false ∧
      monitorFrame.op32 = true ∧
      monitorFrame.inSegment .ss (monitorFrame.reg .esp) 36 = true ∧
      (∀ k, k < 9 → linRead monitorFrame ((monitorFrame.seg .ss).base + (monitorFrame.reg .esp + BitVec.ofNat 32 (4 * k))) 4 .supervisor =
          .ok (frameWord k)) ∧
      (frameWord 2).getLsbD 17 = true ∧ (frameWord 0).toNat ≤ 0xFFFF := by decide +kernel

theorem witness_PortBitmapLayout :
    v86.pg = false ∧ v86.tr.is286 = false ∧ 0x67 ≤ v86.tr.limit.toNat ∧
      0x68 = (v86.mem.read (v86.tr.base + 0x66).toNat).toNat + 256 * (v86.mem.read (v86.tr.base + 0x67).toNat).toNat ∧
      v86.tr.limit.toNat < 0x68 + 0x10000 / 8 + 1 ∧ ¬ v86.tr.limit.toNat < 0x68 + 0xFFFF / 8 + 1 ∧
      ({ v86 with tr := { v86.tr with limit := 0x66 } } : State).tr.limit.toNat < 0x67 ∧
      ({ v86 with tr := { v86.tr with is286 := true } } : State).tr.is286 = true := by decide +kernel

theorem witness_PortTransferResult :
    (regs v86 0 0 0xFFFE 0).pfx.lock = false ∧ (regs v86 0 0 0xFFFE 0).vm = true ∧
      PortsOpen (regs v86 0 0 0xFFFE 0) (0xFF : Byte).toNat 1 ∧
      PortsOpen (regs v86 0 0 0xFFFE 0) (0xFF : Byte).toNat (regs v86 0 0 0xFFFE 0).opBytes ∧
      PortsOpen (regs v86 0 0 0xFFFE 0) ((regs v86 0 0 0xFFFE 0).reg16 .edx).toNat 1 ∧
      PortsOpen (regs v86 0 0 0xFFFE 0) ((regs v86 0 0 0xFFFE 0).reg16 .edx).toNat (regs v86 0 0 0xFFFE 0).opBytes := by
  simp only [PortsOpen]
  decide +kernel

theorem witness_PortTransferResult_out :
    (after (regs v86Iopl0 1 0 0xFFFC 0) p66).pfx.lock = false ∧ (after (regs v86Iopl0 1 0 0xFFFC 0) p66).vm = true ∧
      PortsOpen (after (regs v86Iopl0 1 0 0xFFFC 0) p66) (0 : Byte).toNat 1 ∧
      PortsOpen (after (regs v86Iopl0 1 0 0xFFFC 0) p66) (0 : Byte).toNat 4 ∧
      (after (regs v86Iopl0 1 0 0xFFFC 0) p66).opBytes = 4 ∧
      PortsOpen (after (regs v86Iopl0 1 0 0xFFFC 0) p66) ((after (regs v86Iopl0 1 0 0xFFFC 0) p66).reg16 .edx).toNat 4 := by
  simp only [PortsOpen]
  decide +kernel

/-- Without a repeat prefix byte, and with one and a count of 1; with one and a count of 2 below. -/
theorem witness_StringIoResult :
    (strRegs v86 0 0x300 0 0xFFFE).pfx.lock = false ∧ (strRegs v86 0 0x300 0 0xFFFE).vm = true ∧
      (strRegs v86 0 0x300 0 0xFFFE).pfx.rep = none ∧ (strRegs v86 0 0x300 0 0xFFFE).opBytes = 2 ∧
      PortsOpen (strRegs v86 0 0x300 0 0xFFFE) ((strRegs v86 0 0x300 0 0xFFFE).reg16 .edx).toNat 2 ∧
      Accesses (strRegs v86 0 0x300 0 0xFFFE) .write .es ((strRegs v86 0 0x300 0 0xFFFE).stringReg .edi) 2
        [0x4FFFE, 0x4FFFF] ∧
      (after (strRegs v86 1 0x300 0 0xFFFF) pF3).stringReg .ecx ≠ 0 ∧
      PortsOpen (after (strRegs v86 1 0x300 0 0xFFFF) pF3) 0x300 1 ∧
      Accesses (after (strRegs v86 1 0x300 0 0xFFFF) pF3) .write .es ((after (strRegs v86 1 0x300 0 0xFFFF) pF3).stringReg .edi) 1
        [0x4FFFF] := by
  simp only [Accesses, PortsOpen]
  decide +kernel

theorem witness_StringIoResult_outs :
    (strRegs v86 0 0x300 0xFFFE 0).pfx.lock = false ∧ (strRegs v86 0 0x300 0xFFFE 0).vm = true ∧
      (strRegs v86 0 0x300 0xFFFE 0).pfx.rep = none ∧ (strRegs v86 0 0x300 0xFFFE 0).opBytes = 2 ∧
      PortsOpen (strRegs v86 0 0x300 0xFFFE 0) ((strRegs v86 0 0x300 0xFFFE 0).reg16 .edx).toNat 2 ∧
      Accesses (strRegs v86 0 0x300 0xFFFE 0) .read ((strRegs v86 0 0x300 0xFFFE 0).pfx.seg.getD .ds)
        ((strRegs v86 0 0x300 0xFFFE 0).stringReg .esi) 2 [0x3FFFE, 0x3FFFF] ∧
      (after (strRegs v86 2 0x300 0 0) { pF3 with seg := some .es }).stringReg .ecx ≠ 0 ∧
      PortsOpen (after (strRegs v86 2 0x300 0 0) { pF3 with seg := some .es }) 0x300 1 ∧
      Accesses (after (strRegs v86 2 0x300 0 0) { pF3 with seg := some .es }) .read
        ((after (strRegs v86 2 0x300 0 0) { pF3 with seg := some .es }).pfx.seg.getD .ds) 0 1 [0x40000] := by
  simp only [Accesses, PortsOpen]
  decide +kernel

/-- CX is 0 although ECX is not; the ports open, and closed. -/
theorem witness_RepeatCountZero :
    (after (strRegs v86 0x10000 0x300 0 0) pF3).pfx.lock = false ∧ (after (strRegs v86 0x10000 0x300 0 0) pF3).vm = true ∧
      (after (strRegs v86 0x10000 0x300 0 0) pF3).pfx.rep ≠ none ∧
      (after (strRegs v86 0x10000 0x300 0 0) pF3).stringReg .ecx = 0 ∧
      PortsOpen (after (strRegs v86 0x10000 0x300 0 0) pF3)
        ((after (strRegs v86 0x10000 0x300 0 0) pF3).reg16 .edx).toNat 1 ∧
      (after (strRegs v86 0 0x5F 0 0) pF3).stringReg .ecx = 0 ∧
      PortsClosed (after (strRegs v86 0 0x5F 0 0) pF3) ((after (strRegs v86 0 0x5F 0 0) pF3).reg16 .edx).toNat 2 :=
  ⟨by decide +kernel, by decide +kernel, by decide +kernel, by decide +kernel, by simp only [PortsOpen]; decide +kernel,
    by decide +kernel, 1, by decide, by simp only [PortsOpen]; decide +kernel, .inr (by decide +kernel)⟩

/-- The second port of two closed; the second port of two past FFFFH; IN with F3 and CX = 0. -/
theorem witness_ClosedPortFaults :
    (strRegs v86 0 0xFFFF 0 0).pfx.lock = false ∧ (strRegs v86 0 0xFFFF 0 0).vm = true ∧
      (strRegs v86 0 0xFFFF 0 0).pfx.rep = none ∧
      PortsClosed (strRegs v86 0 0xFFFF 0 0) ((strRegs v86 0 0xFFFF 0 0).reg16 .edx).toNat (strRegs v86 0 0xFFFF 0 0).opBytes ∧
      PortsClosed v86 (0x60 : Byte).toNat 1 ∧ PortsClosed v86 (0x5F : Byte).toNat v86.opBytes ∧
      Instr.inAlImm 0x60 ∉ [Instr.insb, .insw, .outsb, .outsw] ∧ (after v86 pF3).pfx.rep ≠ none ∧
      (after (regs v86 0 0 0 0) pF3).stringReg .ecx = 0 ∧ PortsClosed (after (regs v86 0 0 0 0) pF3) (0x60 : Byte).toNat 1 :=
  ⟨by decide +kernel, by decide +kernel, by decide +kernel,
    ⟨1, by decide +kernel, by simp only [PortsOpen]; decide +kernel, .inl (by decide +kernel)⟩,
    ⟨0, by decide, by simp only [PortsOpen]; decide +kernel, .inr (by decide +kernel)⟩,
    ⟨1, by decide +kernel, by simp only [PortsOpen]; decide +kernel, .inr (by decide +kernel)⟩,
    by decide +kernel, by decide +kernel, by decide +kernel,
    ⟨0, by decide, by simp only [PortsOpen]; decide +kernel, .inr (by decide +kernel)⟩⟩

theorem witness_PrivilegedTrapInV86 :
    v86.pfx.lock = false ∧ v86.vm = true ∧ Instr.hlt ∈ [Instr.clts, .hlt, .invd, .wbinvd] := by decide +kernel

/-- At CPL 0 in protected mode; in real-address mode. -/
theorem witness_SystemLoadsComplete :
    monitor.pfx.lock = false ∧ MayUsePrivileged monitor ∧
      monitor.inSegment (operandSeg monitor (.a32 (.direct 0xFFFFFFFA))) (effAddr monitor (.a32 (.direct 0xFFFFFFFA))) 6 = true ∧
      monitor.inSegment (operandSeg monitor (.a32 (.direct 0xFFFFFFFB))) (effAddr monitor (.a32 (.direct 0xFFFFFFFB))) 6 =
        false ∧
      Accesses monitor .read (operandSeg monitor (.a32 (.direct 0xFFFFFFFA))) (effAddr monitor (.a32 (.direct 0xFFFFFFFA))) 2
        [0xFFFFFFFA, 0xFFFFFFFB] ∧
      Accesses monitor .read (operandSeg monitor (.a32 (.direct 0xFFFFFFFA))) (effAddr monitor (.a32 (.direct 0xFFFFFFFA)) + 2) 4
        [0xFFFFFFFC, 0xFFFFFFFD, 0xFFFFFFFE, 0xFFFFFFFF] ∧
      ReadsWord monitor (.reg .eax) 0 ∧ State.reset.pfx.lock = false ∧ MayUsePrivileged State.reset := by
  simp only [Accesses, ReadsWord, MayUsePrivileged]
  decide +kernel

theorem witness_SpecialRegisterMovesComplete :
    monitor.pfx.lock = false ∧ MayUsePrivileged monitor ∧ (monitor.ctrl.get 1).isNone = true ∧
      (monitor.ctrl.set 3 (monitor.reg .eax)).isSome = true ∧ (monitor.dbg.get 7).isSome = true ∧
      (monitor.tst.set 2 0).isNone = true ∧ ((regs monitor 0x80000000 0 0 0).reg .eax).getLsbD 31 = true ∧
      ((regs monitor 0x80000000 0 0 0).reg .eax).getLsbD 0 = false := by
  simp only [MayUsePrivileged]
  decide +kernel

theorem witness_SpecialRegisterFiles :
    monitor.ctrl.set 3 5 = some { monitor.ctrl with cr3 := 5 } ∧ monitor.dbg.set 7 5 = some { monitor.dbg with dr7 := 5 } ∧
      monitor.tst.set 3 5 = some { monitor.tst with tr3 := 5 } := by decide +kernel

theorem witness_SystemControlCompletes :
    monitor.pfx.lock = false ∧ MayUsePrivileged monitor ∧ State.reset.pfx.lock = false ∧ MayUsePrivileged State.reset := by
  simp only [MayUsePrivileged]
  decide +kernel

theorem witness_V86KeepsTablesCr0DebugAndTest :
    v86.vm = true ∧ (∃ t, exec .popf v86 = .next t) ∧ ∃ t, exec .hlt v86 = .next t :=
  ⟨by decide +kernel, next_of (by decide +kernel), next_of (by decide +kernel)⟩

theorem witness_V86LeftOnlyByDelivery :
    v86.vm = true ∧ v86.cpl = 3 ∧ (∃ t, exec .popf v86 = .next t) ∧ ∃ t, exec .hlt v86 = .next t :=
  ⟨by decide +kernel, by decide +kernel, next_of (by decide +kernel), next_of (by decide +kernel)⟩

/-- A word with SP 2, and with SP 1. -/
theorem witness_PushResult :
    (sp v86 2).pfx.lock = false ∧ (sp v86 2).vm = true ∧
      Accesses (sp v86 2) .write .ss (((sp v86 2).reg16 .esp - BitVec.ofNat 16 (sp v86 2).opBytes).setWidth 32)
        (sp v86 2).opBytes [0x20000, 0x20001] ∧
      0 < ((sp v86 1).reg16 .esp).toNat ∧ ((sp v86 1).reg16 .esp).toNat < (sp v86 1).opBytes ∧
      ((after (sp v86 3) p66).reg16 .esp).toNat < (after (sp v86 3) p66).opBytes := by
  simp only [Accesses]
  decide +kernel

theorem witness_MovResult :
    v86.pfx.lock = false ∧ ReadsWide v86 (.mem (.a16 (.direct 0xFFFE))) 0 ∧
      ReadsWide (after v86 p66) (.mem (.a16 (.direct 0xFFFC))) 0 ∧ ReadsWide v86 (.reg .esp) 0x100 :=
  ⟨by decide +kernel, ⟨[0x3FFFE, 0x3FFFF], by simp only [Accesses]; decide +kernel, by decide +kernel⟩,
    ⟨[0x3FFFC, 0x3FFFD, 0x3FFFE, 0x3FFFF], by simp only [Accesses]; decide +kernel, by decide +kernel⟩,
    by simp only [ReadsWide]; decide +kernel⟩

theorem witness_MovResult_store :
    v86.pfx.lock = false ∧ Writes v86 (Rm.mem (.a16 (.direct 0xFFFE)) : Rm Reg) v86.opBytes [0x3FFFE, 0x3FFFF] ∧
      Writes v86 (Rm.reg Reg.esp) v86.opBytes [] := by
  simp only [Writes, Accesses]
  decide +kernel

/-- With LOCK at IOPL 3, without LOCK, and with LOCK at IOPL 2. -/
theorem witness_XchgResult :
    ((after v86 pF0).pfx.lock = true → (Rm.mem (.a16 (.direct 0)) : Rm Reg).isMem = true ∧
      ((after v86 pF0).vm = false ∨ (after v86 pF0).iopl = 3)) ∧
      ReadsWide (after v86 pF0) (.mem (.a16 (.direct 0))) 0 ∧
      Writes (after v86 pF0) (Rm.mem (.a16 (.direct 0)) : Rm Reg) (after v86 pF0).opBytes [0x30000, 0x30001] ∧
      v86.pfx.lock = false ∧ ReadsWide v86 (.reg .esp) 0x100 ∧ Writes v86 (Rm.reg Reg.esp) v86.opBytes [] ∧
      (after v86Iopl2 pF0).pfx.lock = true ∧ (after v86Iopl2 pF0).vm = true ∧ (after v86Iopl2 pF0).iopl ≠ 3 ∧
      ReadsWide (after v86Iopl2 pF0) (.mem (.a16 (.direct 0))) 0 ∧
      Writes (after v86Iopl2 pF0) (Rm.mem (.a16 (.direct 0)) : Rm Reg) (after v86Iopl2 pF0).opBytes [0x30000, 0x30001] :=
  ⟨fun _ => ⟨rfl, .inr (by decide +kernel)⟩,
    ⟨[0x30000, 0x30001], by simp only [Accesses]; decide +kernel, by decide +kernel⟩,
    by simp only [Writes, Accesses]; decide +kernel, by decide +kernel, by simp only [ReadsWide]; decide +kernel, trivial,
    by decide +kernel, by decide +kernel, by decide +kernel,
    ⟨[0x30000, 0x30001], by simp only [Accesses]; decide +kernel, by decide +kernel⟩,
    by simp only [Writes, Accesses]; decide +kernel⟩

theorem witness_LoadSegmentRegisterResult :
    v86.pfx.lock = false ∧ v86.vm = true ∧ (6 : BitVec 3) ≤ 6 ∧ SReg.ofNum 5 = some .gs ∧ SReg.gs ≠ .cs ∧
      ReadsWord (regs v86 0xFFFF 0 0 0) (.reg .eax) 0xFFFF ∧ SReg.ofNum 2 = some .ss ∧
      ReadsWord v86 (.mem (.a16 (.direct 0xFFFE))) 0 :=
  ⟨by decide +kernel, by decide +kernel, by decide, by decide, by decide, by simp only [ReadsWord]; decide +kernel, by decide,
    [0x3FFFE, 0x3FFFF], by simp only [Accesses]; decide +kernel, by decide +kernel⟩

theorem witness_StoreSegmentRegisterResult :
    v86.pfx.lock = false ∧ (6 : BitVec 3) ≤ 6 ∧ SReg.ofNum 5 = some .gs ∧
      Accesses v86 .write (operandSeg v86 (.a16 (.direct 0xFFFE))) (effAddr v86 (.a16 (.direct 0xFFFE))) 2 [0x3FFFE, 0x3FFFF] ∧
      v86.op32 = false ∧ (after v86 p66).pfx.lock = false ∧ (after v86 p66).op32 = true := by
  simp only [Accesses]
  decide +kernel

/-- A divisor of 0 and of FFH in a register, and one in memory. -/
theorem witness_DivResult :
    v86.pfx.lock = false ∧ ReadsByte v86 (.reg .bl) 0 ∧ ReadsByte (regs v86 0xFE01 0 0 0xFF) (.reg .bl) 0xFF ∧
      ReadsByte { v86 with mem := poke v86.mem 0x3FFFF [7] } (.mem (.a16 (.direct 0xFFFF))) 7 ∧
      ReadsWide (regs v86 0 0xFFFF 0 0) (.reg .ecx) 0xFFFF ∧ (regs v86 0 0xFFFF 0 0).op32 = false ∧
      ReadsWide (after (regs v86 0 1 0 0) p66) (.reg .ecx) 1 ∧ (after (regs v86 0 1 0 0) p66).op32 = true :=
  ⟨by decide +kernel, by simp only [ReadsByte]; decide +kernel, by simp only [ReadsByte]; decide +kernel,
    ⟨[0x3FFFF], by simp only [Accesses]; decide +kernel, by decide +kernel⟩, by simp only [ReadsWide]; decide +kernel,
    by decide +kernel, by simp only [ReadsWide]; decide +kernel, by decide +kernel⟩

/-- Quotients -128 and 128. -/
theorem witness_IdivResult :
    v86.pfx.lock = false ∧ ReadsByte (regs v86 0xFF80 0 0 1) (.reg .bl) 1 ∧
      ((regs v86 0xFF80 0 0 1).reg16 .eax).toInt.tdiv (1 : Byte).toInt = -128 ∧
      ReadsByte (regs v86 0xFF80 0 0 0xFF) (.reg .bl) 0xFF ∧
      ((regs v86 0xFF80 0 0 0xFF).reg16 .eax).toInt.tdiv (0xFF : Byte).toInt = 128 ∧
      ReadsWide (regs v86 0 0xFFFF 0 0) (.reg .ecx) 0xFFFF ∧ (regs v86 0 0xFFFF 0 0).op32 = false ∧
      ReadsWide (after (regs v86 0 1 0 0) p66) (.reg .ecx) 1 ∧ (after (regs v86 0 1 0 0) p66).op32 = true := by
  simp only [ReadsByte, ReadsWide]
  decide +kernel

/-- Masked counts 0, 1 and 31, a register and a memory operand. -/
theorem witness_ShiftResult :
    v86.pfx.lock = false ∧ ReadsByte (regs v86 0x81 0x20 0 0) (.reg .al) 0x81 ∧ Writes v86 (Rm.reg Reg8.al) 1 [] ∧
      (CountForm.cl.count (regs v86 0x81 0x20 0 0)).toNat % 32 = 0 ∧ (CountForm.one.count v86).toNat % 32 = 1 ∧
      ((CountForm.imm 0xFF).count v86).toNat % 32 = 31 ∧
      ReadsByte v86 (.mem (.a16 (.direct 0xFFFF))) 0 ∧
      Writes v86 (Rm.mem (.a16 (.direct 0xFFFF)) : Rm Reg8) 1 [0x3FFFF] ∧
      ReadsWide v86 (.mem (.a16 (.direct 0xFFFE))) 0 ∧
      Writes v86 (Rm.mem (.a16 (.direct 0xFFFE)) : Rm Reg) v86.opBytes [0x3FFFE, 0x3FFFF] ∧ v86.op32 = false ∧
      ReadsWide (after v86 p66) (.reg .esp) 0x100 ∧ (after v86 p66).op32 = true :=
  ⟨by decide +kernel, by simp only [ReadsByte]; decide +kernel, trivial, by decide +kernel, by decide +kernel, by decide +kernel,
    ⟨[0x3FFFF], by simp only [Accesses]; decide +kernel, by decide +kernel⟩,
    by simp only [Writes, Accesses]; decide +kernel,
    ⟨[0x3FFFE, 0x3FFFF], by simp only [Accesses]; decide +kernel, by decide +kernel⟩,
    by simp only [Writes, Accesses]; decide +kernel, by decide +kernel, by simp only [ReadsWide]; decide +kernel,
    by decide +kernel⟩

theorem witness_ShiftCountModulo32 : (0x1F : Byte).toNat % 32 = (0xFF : Byte).toNat % 32 ∧ (0x1F : Byte) ≠ 0xFF := by decide

/-- The rotate and shift rules: the counts 1, 8, 9 and 31 on 8 bits, 16 and 17 on 16, 31 on 32. -/
theorem witness_RotateRules_RotateThroughCarryRules_ShiftRules :
    ∀ p ∈ [(8, 1), (8, 8), (8, 9), (8, 31), (16, 16), (16, 17), (32, 31)],
      (p.1 = 8 ∨ p.1 = 16 ∨ p.1 = 32) ∧ 0 < p.2 ∧ p.2 < 32 := by decide

/-- Selector FFFFH. -/
theorem witness_LinearAddressRange :
    ({ v86 with segs := { v86.segs with ds := seg8086 0xFFFF } } : State).vm = true ∧
      segmentsOk { v86 with segs := { v86.segs with ds := seg8086 0xFFFF } } = true := by decide +kernel

/-- V86 mode with paging on, and one page: linear 30000H to 30FFFH, which only reads may reach. -/
def paged : State :=
  { v86 with ctrl := { v86.ctrl with cr0 := 0xE0000011, cr3 := 0x5000 }
             pageMap := [{ cr3 := 0x5000, page := 0x30, frame := 0x80, allowed := [(.read, .user)] }] }

/-- A word at FFFFH; a word whose second byte, and one whose first, lies on a page that does not allow the access. -/
theorem witness_OffsetPastSegmentEndFaults :
    (v86.vm = true ∧ 0x10000 < (0xFFFF : Dword).toNat + 2 ∧ v86.pfx.lock = false ∧
      Reaches v86 (.movRRm .eax (.mem (.a16 (.direct 0xFFFF)))) .read .ds 0xFFFF 2) ∧
    (paged.vm = true ∧ paged.pfx.lock = false ∧ paged.alignmentTrap (paged.lin .ds 0xFFF) 2 = false ∧
      Reaches paged (.movRRm .eax (.mem (.a16 (.direct 0xFFF)))) .read .ds 0xFFF 2 ∧
      (∃ pa, linToPhys paged (paged.lin .ds 0xFFF + BitVec.ofNat 32 0) .read .user = .ok pa) ∧
      linToPhys paged (paged.lin .ds 0xFFF + BitVec.ofNat 32 1) .read .user =
        .error (.exc (excPF 0x31000 false .read .user))) ∧
    (Reaches paged (.xchg (.mem (.a16 (.direct 0x10))) .eax) .write .ds 0x10 2 ∧
      linToPhys paged (paged.lin .ds 0x10 + BitVec.ofNat 32 0) .write .user =
        .error (.exc (excPF 0x30010 true .write .user))) :=
  ⟨⟨by decide +kernel, by decide, by decide +kernel, .movLoad .eax (.a16 (.direct 0xFFFF))⟩,
    ⟨by decide +kernel, by decide +kernel, by decide +kernel, .movLoad .eax (.a16 (.direct 0xFFF)),
      ⟨0x80FFF, by decide +kernel⟩, by decide +kernel⟩,
    .xchgWrite (.a16 (.direct 0x10)) .eax [0x80010, 0x80011] (by unfold Accesses; decide +kernel), by decide +kernel⟩

theorem witness_StoreThenLoad :
    5 ∉ [4, 6] ∧ v86.pg = false ∧ v86.inSegment .ss 0xFFFC 4 = true ∧ v86.alignmentTrap (v86.lin .ss 0xFFFC) 4 = false ∧
      4 ≤ 4 ∧ memoryOk v86 = true := by decide +kernel

/-- An entry that allows supervisor reads only. -/
def supervisorPage : PageEntry := { cr3 := 0x5000, page := 0x30, frame := 0x80, allowed := [(.read, .supervisor)] }

/-- A page that no entry lists, and one whose first entry allows supervisor reads only. -/
theorem witness_PageFaultReported :
    ({ v86 with ctrl := { v86.ctrl with cr0 := 0xE0000011, cr3 := 0x5000 } } : State).pg = true ∧
      (∀ e ∈ ({ v86 with ctrl := { v86.ctrl with cr0 := 0xE0000011, cr3 := 0x5000 } } : State).pageMap,
        ¬ (e.cr3 = 0x5000 ∧ e.page = (0x30010 : Dword).extractLsb' 12 20)) ∧
      (∀ x ∈ [{ supervisorPage with cr3 := 0x6000 }],
        ¬ (x.cr3 = 0x5000 ∧ x.page = (0x30010 : Dword).extractLsb' 12 20)) ∧
      supervisorPage.cr3 = 0x5000 ∧ supervisorPage.page = (0x30010 : Dword).extractLsb' 12 20 ∧
      (Access.read, Priv.user) ∉ supervisorPage.allowed ∧ (Access.read, Priv.supervisor) ∈ supervisorPage.allowed := by
  decide +kernel

/-- An external interrupt through a trap gate. -/
theorem witness_DeliveryEntersHandler :
    v86.vm = true ∧
      GateOpen v86 { vector := 8, err := none, ext := true, ret := 0x100, trap := false }
        { kind := .trap32, sel := 8, offset := 0x403800, dpl := 0, present := true } (flat 0 true) 0x10 (flat 0 false) 0x8000
        (framed v86 { vector := 8, err := none, ext := true, ret := 0x100, trap := false }).1
        (framed v86 { vector := 8, err := none, ext := true, ret := 0x100, trap := false }).2 :=
  ⟨by decide +kernel,
    gate_open v86 _ _ (by decide +kernel) rfl (.inl rfl) (by decide +kernel) rfl (by decide +kernel) (by decide +kernel)
      (by decide +kernel) (by decide +kernel)⟩

/-- The least ESP0 of a frame without an error code; the greatest of a stack whose limit is 7FFFH, and of one of 4 GB. -/
theorem witness_FrameLayout :
    v86.pg = false ∧ memoryOk v86 = true ∧
      36 = (if ({ vector := 8, err := none, ext := true, ret := 0, trap := false } : Event).err = none then 36 else 40) ∧
      36 ≤ (flat 0 false).limit.toNat + 1 ∧ (flat 0 false).base.toNat + 36 ≤ 2 ^ 32 ∧
      40 = (if ({ vector := 13, err := some 0, ext := false, ret := 0, trap := false } : Event).err = none then 36 else 40) ∧
      40 ≤ 0x8000 ∧ 0x8000 = ({ flat 0 false with limit := 0x7FFF } : SegDesc).limit.toNat + 1 ∧
      40 ≤ 2 ^ 32 ∧ 2 ^ 32 = (flat 0 false).limit.toNat + 1 ∧ (flat 0 false).base.toNat + 2 ^ 32 ≤ 2 ^ 32 := by decide +kernel

/-- The event after INT 23H, whose gate's target has DPL 2. -/
theorem witness_BadGateTargetRaisesGp :
    v86.vm = true ∧
      readGate v86 0x23 = .ok { kind := .int32, sel := 0x1B, offset := 0x401200, dpl := 3, present := true } ∧
      (∀ d, v86.segDesc 0x1B = some d → d.code = false ∨ d.conforming = true ∨ d.dpl ≠ 0) ∧
      GateOpen v86
        { vector := 13, err := some (((0x1B : Word) &&& 0xFFFC).setWidth 32 ||| (if false then 1 else 0)), ext := false
          ret := v86.eip, trap := false }
        { kind := .int32, sel := 8, offset := 0x402000, dpl := 0, present := true } (flat 0 true) 0x10 (flat 0 false) 0x8000
        (framed v86 { vector := 13, err := some 0x18, ext := false, ret := 0x100, trap := false }).1
        (framed v86 { vector := 13, err := some 0x18, ext := false, ret := 0x100, trap := false }).2 :=
  ⟨by decide +kernel, by decide +kernel,
    fun d h => by
      have e : v86.segDesc 0x1B = some (flat 2 true) := by decide +kernel
      cases e.symm.trans h
      exact .inr (.inr (by decide)),
    gate_open v86 { vector := 13, err := some 0x18, ext := false, ret := 0x100, trap := false } _ (by decide +kernel) rfl (.inr rfl)
      (by decide +kernel) rfl (by decide +kernel) (by decide +kernel) (by decide +kernel) (by decide +kernel)⟩

/-- A V86 task in a TSS at 9000H: CR3 0, EIP 100H, EFLAGS 20002H, CS 1000H. -/
def twoTasks : State :=
  { v86 with
    mem := poke (poke (poke v86.mem 0x9020 [0x00, 0x01]) 0x9024 [0x02, 0x00, 0x02]) 0x904C [0x00, 0x10]
    descriptors := { sel := 0x30, desc := .tss { base := 0x9000, limit := 0x67, is286 := false } } :: v86.descriptors }

/-- The outcome of an operation, if it is one. -/
theorem ok_of {x : M State} {α : Type} {f : State → α} {a : α} (h : x.toOption.map f = some a) :
    ∃ t, x = .ok t ∧ f t = a := by
  cases x with
  | ok t => exact ⟨t, rfl, Option.some.inj h⟩
  | error e => cases h

/-- A task that runs the monitor in a 32-bit TSS at 9000H: EIP 100H, EFLAGS 2, CS 8, SS 10H, the others null. -/
def toMonitor : State :=
  { v86 with
    mem := poke (poke (poke (poke v86.mem 0x9020 [0x00, 0x01]) 0x9024 [0x02]) 0x904C [0x08]) 0x9050 [0x10]
    descriptors := { sel := 0x30, desc := .tss { base := 0x9000, limit := 0x67, is286 := false } } :: v86.descriptors }

/-- A task that runs the monitor in an 80286 TSS at 9000H: IP 200H, FLAGS 2, CS 8, SS 10H, the others null. -/
def to286 : State :=
  { v86 with
    mem := poke (poke (poke (poke v86.mem 0x900E [0x00, 0x02]) 0x9010 [0x02]) 0x9024 [0x08]) 0x9026 [0x10]
    tr := { v86.tr with is286 := true }
    descriptors := { sel := 0x30, desc := .tss { base := 0x9000, limit := 0x2B, is286 := true } } :: v86.descriptors }

/-- The new EFLAGS with VM = 1, with VM = 0, and from an 80286 TSS; paging is off and no TSS wraps. -/
theorem witness_TaskSwitchLoadsSegmentsByNewVm :
    (∃ t, taskSwitch twoTasks 0x30 0x102 = .ok t ∧ t.vm = true) ∧
      (∃ t, taskSwitch toMonitor 0x30 0x102 = .ok t ∧ (t.vm, t.eip, t.sel .cs, t.sel .ss) = (false, 0x100, 0x08, 0x10)) ∧
      (∃ t, taskSwitch to286 0x30 0x102 = .ok t ∧ (t.vm, t.eip, t.sel .cs, t.sel .ss) = (false, 0x200, 0x08, 0x10)) ∧
      (∀ s ∈ [twoTasks, toMonitor, to286], s.pg = false ∧ memoryOk s = true ∧ s.tr.base.toNat + 0x68 ≤ 2 ^ 32) ∧
      twoTasks.tr.is286 = false ∧ to286.tr.is286 = true ∧
      twoTasks.tssDesc 0x30 = some { base := 0x9000, limit := 0x67, is286 := false } ∧
      to286.tssDesc 0x30 = some { base := 0x9000, limit := 0x2B, is286 := true } ∧ (0x9000 : Dword).toNat + 0x68 ≤ 2 ^ 32 :=
  ⟨ok_of (by decide +kernel), ok_of (by decide +kernel), ok_of (by decide +kernel), by decide +kernel⟩

/-- R252: an EIP image of 10000H with VM = 1 is refused. -/
theorem test_task_switch_eip :
    (match taskSwitch { twoTasks with mem := poke twoTasks.mem 0x9022 [1] } 0x30 0x102 with
      | .error e => some e
      | .ok _ => none) = some (.refuse .v86EntryEip) := by decide +kernel

/-- The monitor with NT = 1 and a back link to the task at 9000H. -/
def nestedMonitor : State :=
  { twoTasks with segs := monitor.segs, cpl := 0, eflags := Eflags.ofWord 0x4002, mem := poke twoTasks.mem 0x6000 [0x30] }

/-- A task gate for vector 5. -/
def taskGated : State := { twoTasks with mem := poke twoTasks.mem 0x7028 [0, 0, 0x30, 0, 0, 0x85] }

theorem witness_TaskSwitchOccasions :
    nestedMonitor.pfx.lock = false ∧ nestedMonitor.mode = .prot ∧ nestedMonitor.eflags.nt = true ∧
      (if nestedMonitor.tr.is286 then 0x2B else 0x67) ≤ nestedMonitor.tr.limit.toNat ∧
      linRead nestedMonitor nestedMonitor.tr.base 2 .supervisor = .ok 0x30 ∧
      (∃ t, taskSwitch { nestedMonitor with intShadow := false, ssShadow := false } 0x30
        (nestedMonitor.eip + BitVec.ofNat 32 nestedMonitor.ilen) = .ok t ∧ t.eip = 0x100) ∧
      taskGated.vm = true ∧
      readGate taskGated 5 = .ok { kind := .task, sel := 0x30, offset := 0, dpl := 0, present := true } ∧
      (∃ t, taskSwitch taskGated 0x30 0x100 = .ok t ∧ t.eip = 0x100) :=
  ⟨by decide +kernel, by decide +kernel, by decide +kernel, by decide +kernel, by decide +kernel, ok_of (by decide +kernel),
    by decide +kernel, by decide +kernel, ok_of (by decide +kernel)⟩

/-- An external request, an NMI, a floating-point error and two writes of one byte. -/
def fullOffer : Offer :=
  { irq := some 8, nmi := true, fpError := true, busWrites := [(0xFFFFFFFF, 1), (0xFFFFFFFF, 2)] }

/-- The full offer while NMIs are masked; a write past the physical addresses. -/
theorem witness_BoundaryTakesOffer :
    ({ v86 with nmiMasked := true, extEvents := [fullOffer] } : State).ilen = 0 ∧
      (∀ c ∈ fullOffer.busWrites, c.1 < 2 ^ 32) ∧ memoryOk v86 = true ∧
      (∃ c ∈ [((2 ^ 32 : Nat), (1 : Byte))], 2 ^ 32 ≤ c.1) :=
  ⟨by decide +kernel, by decide +kernel, by decide +kernel, (2 ^ 32, 1), by simp, by decide⟩

/-- An environment that offers an NMI. -/
def nmiOffered : State :=
  { v86 with extEvents := [{ irq := none, nmi := true, fpError := false, busWrites := [] }] }

/-- Everything pending: trap, NMI, an external request; the same without the trap; two external requests alone; and an
environment that offers an NMI. -/
theorem witness_EventsTakenInOrder :
    (∀ s ∈ [{ v86 with trapPending := true, nmiPending := true, irqs := [8] }, { v86 with nmiPending := true, irqs := [8] },
        { v86 with irqs := [8, 9] }],
      s.ilen = 0 ∧ absorb s = .ok s ∧ s.ssShadow = false ∧ s.nmiMasked = false ∧ s.eflags.intf = true ∧
        s.intShadow = false ∧ s.irqs ≠ []) ∧
      nmiOffered.ilen = 0 ∧ absorb nmiOffered = .ok { nmiOffered with extEvents := [], nmiPending := true } := by
  decide +kernel

/-- A masked NMI and the shadow of STI; IF 0; the shadow of a load of SS with a trap, an NMI and a request pending; halted. -/
theorem witness_MaskedEventsStayPending :
    ∀ s ∈ [{ v86 with nmiPending := true, nmiMasked := true, irqs := [8], intShadow := true },
        { v86 with irqs := [8], eflags := Eflags.ofWord 0x23002 },
        { v86 with trapPending := true, nmiPending := true, irqs := [8], intShadow := true, ssShadow := true },
        { v86 with halted := true }, overItself],
      s.ilen = 0 ∧ absorb s = .ok s ∧ (s.trapPending = false ∨ s.ssShadow = true) ∧
        (s.nmiPending = false ∨ s.nmiMasked = true ∨ s.ssShadow = true) ∧
        (s.irqs = [] ∨ s.eflags.intf = false ∨ s.intShadow = true ∨ s.ssShadow = true) := by decide +kernel

end Sys2Proof.Tests
end

section
/-! PROOFS. Every step keeps memory in its canonical form, and the mode and the V86 segment registers legal (O3, O4). Both claims
go through one relation, `Keeps`, shown of each operation, of delivery, of each instruction and at last of a step. -/

namespace Sys2Proof.Proofs

open Sys2Proof.Machine Sys2Proof.Safety Sys2Proof.Laws

/-! The invariants and the relations between a state and the next one. -/

/-- The mode is legal, and in V86 mode so are the segment registers: what O4 says of a state. -/
def ModeLegal (s : State) : Prop := modeOk s = true ∧ segmentsOk s = true

theorem modeLegal_iff {s : State} :
    ModeLegal s ↔
      (s.vm = true → s.pe = true ∧ s.cpl = 3 ∧ ∀ r, s.seg r = seg8086 (s.sel r)) ∧ (s.pe = false → s.cpl = 0) := by
  have hall : (∀ r ∈ [SReg.es, .cs, .ss, .ds, .fs, .gs], s.seg r = seg8086 (s.sel r)) ↔
      ∀ r, s.seg r = seg8086 (s.sel r) :=
    ⟨fun h r => h r (by cases r <;> decide), fun h r _ => h r⟩
  have hseg : segmentsOk s = true ↔ s.vm = false ∨ ∀ r, s.seg r = seg8086 (s.sel r) := by
    simp only [segmentsOk, Bool.or_eq_true, Bool.not_eq_true', List.all_eq_true, beq_iff_eq, hall]
  unfold ModeLegal
  rw [hseg]
  simp only [modeOk, Bool.and_eq_true, Bool.or_eq_true, Bool.not_eq_true', beq_iff_eq]
  cases s.vm <;> cases s.pe <;> simp

/-- Outside V86 mode only CPL counts, and only without protection. -/
theorem modeLegal_of_not_v86 {s : State} (hv : s.vm = false) (hc : s.pe = false → s.cpl = 0) : ModeLegal s :=
  modeLegal_iff.2 ⟨fun h => by simp [hv] at h, hc⟩

theorem ModeLegal.pe_of_vm {s : State} (h : ModeLegal s) (hv : s.vm = true) : s.pe = true :=
  ((modeLegal_iff.1 h).1 hv).1

theorem ModeLegal.cpl_of_not_pe {s : State} (h : ModeLegal s) (hp : s.pe = false) : s.cpl = 0 :=
  (modeLegal_iff.1 h).2 hp

/-- From `s` to `t` the two invariants are kept. -/
structure Keeps (s t : State) : Prop where
  memory : memoryOk s = true → memoryOk t = true
  mode : ModeLegal s → ModeLegal t

theorem Keeps.refl (s : State) : Keeps s s := ⟨id, id⟩

theorem Keeps.trans {s t u : State} (h : Keeps s t) (h' : Keeps t u) : Keeps s u :=
  ⟨h'.memory ∘ h.memory, h'.mode ∘ h.mode⟩

/-- From `s` to `t` memory stays canonical, and nothing that the mode or the segment registers consist of changes. -/
structure Plain (s t : State) : Prop where
  memory : memoryOk s = true → memoryOk t = true
  segs : t.segs = s.segs
  vm : t.vm = s.vm
  pe : t.pe = s.pe
  cpl : t.cpl = s.cpl

theorem Plain.refl (s : State) : Plain s s := ⟨id, rfl, rfl, rfl, rfl⟩

theorem Plain.trans {s t u : State} (h : Plain s t) (h' : Plain t u) : Plain s u :=
  ⟨h'.memory ∘ h.memory, h'.segs.trans h.segs, h'.vm.trans h.vm, h'.pe.trans h.pe, h'.cpl.trans h.cpl⟩

theorem Plain.keeps {s t : State} (h : Plain s t) : Keeps s t := by
  refine ⟨h.memory, fun hs => ?_⟩
  rw [modeLegal_iff] at hs ⊢
  simpa only [State.seg, State.sel, h.segs, h.vm, h.pe, h.cpl] using hs

theorem Plain.of_eq {s t : State} (hm : t.mem = s.mem) (hs : t.segs = s.segs) (hv : t.eflags.vm = s.eflags.vm)
    (hc : t.ctrl.cr0 = s.ctrl.cr0) (hl : t.cpl = s.cpl) : Plain s t :=
  ⟨fun h => by simpa only [memoryOk, hm] using h, hs, hv, by simp only [State.pe, hc], hl⟩

theorem Keeps.of_eq {s t : State} (hm : t.mem = s.mem) (hs : t.segs = s.segs) (hv : t.eflags.vm = s.eflags.vm)
    (hc : t.ctrl.cr0 = s.ctrl.cr0) (hl : t.cpl = s.cpl) : Keeps s t :=
  (Plain.of_eq hm hs hv hc hl).keeps

/-! Updates of the state. -/

theorem plain_begin (s : State) : Plain s s.begin := .of_eq rfl rfl rfl rfl rfl

theorem plain_retireAt (s t : State) (eip : Dword) : Plain t (retireAt s t eip) := .of_eq rfl rfl rfl rfl rfl

theorem plain_retire (s t : State) : Plain t (retire s t) := plain_retireAt ..

theorem plain_betweenIterations (s t : State) (op : StringIo) : Plain t (betweenIterations s t op) :=
  .of_eq rfl rfl rfl rfl rfl

theorem plain_setReg (s : State) (r : Reg) (v : Dword) : Plain s (s.setReg r v) := .of_eq rfl rfl rfl rfl rfl

theorem plain_setReg16 (s : State) (r : Reg) (v : Word) : Plain s (s.setReg16 r v) := .of_eq rfl rfl rfl rfl rfl

theorem plain_setReg8 (s : State) (r : Reg8) (v : Byte) : Plain s (s.setReg8 r v) := .of_eq rfl rfl rfl rfl rfl

theorem plain_setRegW (s : State) (w : Bool) (r : Reg) (v : Dword) : Plain s (s.setRegW w r v) := by
  cases w
  · exact plain_setReg16 ..
  · exact plain_setReg ..

theorem plain_setStackPtr (s : State) (v : Dword) : Plain s (s.setStackPtr v) := plain_setRegW ..

theorem plain_setStringReg (s : State) (r : Reg) (v : Dword) : Plain s (s.setStringReg r v) := plain_setRegW ..

theorem plain_advanceIndex (s : State) (r : Reg) (n : Nat) : Plain s (s.advanceIndex r n) := plain_setStringReg ..

theorem plain_divided (s : State) : Plain s s.divided := .of_eq rfl rfl rfl rfl rfl

theorem shiftFlags_vm {n : Nat} (op : ShiftOp) (f : Eflags) (d : BitVec n) (c k : Nat) :
    (shiftFlags op f d c k).vm = f.vm := by
  cases op <;> rfl

/-- The flags of a shift are those of the state before it, so that state and the one with the result written agree on VM. -/
theorem plain_shifted {n : Nat} {s t : State} (op : ShiftOp) (d : BitVec n) (c : Nat) (h : Plain s t) :
    Plain s (s.shifted t op d c) :=
  ⟨h.memory, h.segs, shiftFlags_vm .., h.pe, h.cpl⟩

theorem plain_ioReadDone (s : State) (port : Word) (n : Nat) : Plain s (s.ioReadDone port n) :=
  .of_eq rfl rfl rfl rfl rfl

theorem plain_ioWrite (s : State) (port : Word) (n : Nat) (v : Dword) : Plain s (s.ioWrite port n v) :=
  .of_eq rfl rfl rfl rfl rfl

/-- A store to 32-bit physical addresses keeps memory canonical. -/
theorem plain_storeAt {s : State} {pas : List Nat} (v : Dword) (hp : ∀ a ∈ pas, a < 2 ^ 32) : Plain s (s.storeAt pas v) := by
  refine ⟨fun hm => ?_, rfl, rfl, rfl, rfl⟩
  simp only [memoryOk, Bool.and_eq_true, storeAt_mem] at hm ⊢
  exact ⟨writeAll_wf _ _ hm.1, writeAll_range _ _ hp hm.2⟩

/-! Accesses to memory, and the operations over them. -/

theorem memWrite_plain {s t : State} {r : SReg} {off v : Dword} {n : Nat} (h : memWrite s r off n v = .ok t) : Plain s t := by
  obtain ⟨pas, ha, rfl⟩ := memWrite_eq_ok.1 h
  exact plain_storeAt v (accesses_ok ha).2

theorem push_plain {s t : State} {n : Nat} {v : Dword} (h : push s n v = .ok t) : Plain s t := by
  obtain ⟨pas, ha, rfl⟩ := push_eq_ok.1 h
  exact (plain_storeAt v (accesses_ok ha).2).trans (plain_setStackPtr ..)

theorem writeRm8_plain {s t : State} {x : Rm Reg8} {v : Byte} (h : writeRm8 s x v = .ok t) : Plain s t := by
  cases x with
  | reg r => cases h; exact plain_setReg8 ..
  | mem m => exact memWrite_plain h

theorem writeRmW_plain {s t : State} {x : Rm Reg} {v : Dword} (h : writeRmW s x v = .ok t) : Plain s t := by
  cases x with
  | reg r => cases h; exact plain_setRegW ..
  | mem m => exact memWrite_plain h

theorem shift8_plain {s t : State} {op : ShiftOp} {dst : Rm Reg8} {count : Byte} (h : shift8 op dst count s = .ok t) :
    Plain s t := by
  simp only [shift8, bind_eq_ok] at h
  obtain ⟨d, -, h⟩ := h
  split at h
  · cases h; exact .refl s
  · obtain ⟨u, hu, h⟩ := bind_eq_ok.1 h
    cases h
    exact plain_shifted _ _ _ (writeRm8_plain hu)

theorem shiftW_plain {s t : State} {op : ShiftOp} {dst : Rm Reg} {count : Byte} (h : shiftW op dst count s = .ok t) :
    Plain s t := by
  simp only [shiftW, bind_eq_ok] at h
  obtain ⟨d, -, h⟩ := h
  split at h
  · cases h; exact .refl s
  · split at h <;>
    · obtain ⟨u, hu, h⟩ := bind_eq_ok.1 h
      cases h
      exact plain_shifted _ _ _ (writeRmW_plain hu)

theorem inByte_plain {s t : State} {port : Word} (h : inByte s port = .ok t) : Plain s t := by
  obtain ⟨-, -, h⟩ := bind_eq_ok.1 h
  cases h
  exact (plain_ioReadDone ..).trans (plain_setReg8 ..)

theorem inWide_plain {s t : State} {port : Word} (h : inWide s port = .ok t) : Plain s t := by
  obtain ⟨-, -, h⟩ := bind_eq_ok.1 h
  cases h
  exact (plain_ioReadDone ..).trans (plain_setRegW ..)

theorem outByte_plain {s t : State} {port : Word} (h : outByte s port = .ok t) : Plain s t := by
  obtain ⟨-, -, h⟩ := bind_eq_ok.1 h
  cases h
  exact plain_ioWrite ..

theorem outWide_plain {s t : State} {port : Word} (h : outWide s port = .ok t) : Plain s t := by
  obtain ⟨-, -, h⟩ := bind_eq_ok.1 h
  cases h
  exact plain_ioWrite ..

theorem insOnce_plain {s t : State} {n : Nat} (h : insOnce s n = .ok t) : Plain s t := by
  simp only [insOnce, bind_eq_ok] at h
  obtain ⟨-, -, u, hu, h⟩ := h
  cases h
  exact (memWrite_plain hu).trans ((plain_ioReadDone ..).trans (plain_advanceIndex ..))

theorem outsOnce_plain {s t : State} {n : Nat} (h : outsOnce s n = .ok t) : Plain s t := by
  simp only [outsOnce, bind_eq_ok] at h
  obtain ⟨-, -, v, -, h⟩ := h
  cases h
  exact (plain_ioWrite ..).trans (plain_advanceIndex ..)

/-! Segment registers and control registers. -/

/-- A segment register may be written where, in V86 mode, it gets what the 8086 rule makes of a selector. -/
theorem keeps_setSeg {s : State} (r : SReg) {g : SegReg} (hg : s.vm = true → ∃ sel, g = seg8086 sel) :
    Keeps s (s.setSeg r g) := by
  refine ⟨id, fun hs => ?_⟩
  rw [modeLegal_iff] at hs ⊢
  refine ⟨fun hv => ?_, hs.2⟩
  obtain ⟨hpe, hcpl, hseg⟩ := hs.1 hv
  obtain ⟨sel, rfl⟩ := hg hv
  refine ⟨hpe, hcpl, fun q => ?_⟩
  by_cases hq : q = r
  · subst hq
    simp only [State.seg, State.sel, State.setSeg, segs_get_set_same]
    rfl
  · simpa only [State.seg, State.sel, State.setSeg, segs_get_set_other _ _ hq] using hseg q

theorem loadSeg_keeps {s t : State} {r : SReg} {sel : Word} (h : loadSeg s r sel = .ok t) : Keeps s t := by
  obtain ⟨g, rfl, hg⟩ := loadSeg_eq_ok h
  exact keeps_setSeg r fun hv => ⟨sel, hg hv⟩

theorem mayUsePrivileged_of_ok {s : State} {u : Unit} (h : privileged s = .ok u) : MayUsePrivileged s := by
  unfold privileged State.mode at h
  unfold MayUsePrivileged
  cases hv : s.vm <;> cases hp : s.pe <;> simp_all [raising]

/-- Where privileged instructions may execute, CPL is 0 in protected mode and without protection, so that CR0 may take any
value. -/
theorem keeps_ctrl {s : State} (c : CtrlRegs) (hp : MayUsePrivileged s) : Keeps s { s with ctrl := c } := by
  obtain ⟨hv, hc⟩ := hp
  refine ⟨id, fun hs => modeLegal_of_not_v86 hv fun _ => ?_⟩
  cases hpe : s.pe with
  | false => exact hs.cpl_of_not_pe hpe
  | true => exact hc hpe

/-! Delivery and the task switch. -/

theorem mode_prot_iff {s : State} : s.mode = .prot ↔ s.vm = false ∧ s.pe = true := by
  unfold State.mode
  cases s.vm <;> cases s.pe <;> simp

theorem mode_real_iff {s : State} : s.mode = .real ↔ s.vm = false ∧ s.pe = false := by
  unfold State.mode
  cases s.vm <;> cases s.pe <;> simp

/-- A task switch is made with protection enabled, and what it enters is protected mode or V86 mode at CPL 3 (R208). -/
theorem taskSwitch_keeps {s t : State} {sel : Word} {eip : Dword} (hpe : ModeLegal s → s.pe = true)
    (h : taskSwitch s sel eip = .ok t) : Keeps s t := by
  obtain ⟨⟨regs, segs, eip', fl, cpl, cr3, ldtr, tr, draws, mem, rfl⟩, hmem, hv86⟩ := taskSwitch_ok h
  refine ⟨hmem, fun hs => modeLegal_iff.2 ⟨fun hv => ?_, fun hp => ?_⟩⟩
  · exact ⟨hpe hs, hv86 hv⟩
  · exact absurd (hpe hs) (by simpa [State.pe] using hp)

/-- A handler is entered in protected mode (R203). -/
theorem enterHandler_keeps {s t : State} {ev : Event} {g : Gate} {c : SegDesc} (hv : s.vm = true)
    (h : enterHandler s ev g c = .ok t) : Keeps s t := by
  obtain ⟨u, ss0, stack, esp0, esp, hp, -, rfl⟩ := enterHandler_ok h
  obtain ⟨⟨m, w, rfl⟩, hmem⟩ := pushFrame_ok hp
  refine ⟨hmem, fun hs => modeLegal_of_not_v86 rfl fun hpe => ?_⟩
  exact absurd (hs.pe_of_vm hv) (by simpa [handlerState, State.pe] using hpe)

theorem enterTask_keeps {s t : State} {ev : Event} {g : Gate} (hv : s.vm = true) (h : enterTask s ev g = .ok t) :
    Keeps s t := by
  obtain ⟨u, hu, rfl⟩ := enterTask_ok h
  exact (taskSwitch_keeps (fun hs => hs.pe_of_vm hv) hu).trans (.of_eq rfl rfl rfl rfl rfl)

theorem pushReal_plain {s t : State} {ret : Dword} (h : pushReal s ret = .ok t) : Plain s t := by
  simp only [pushReal, bind_eq_ok] at h
  obtain ⟨u, hu, v, hv, ht⟩ := h
  exact (push_plain hu).trans ((push_plain hv).trans (push_plain ht))

theorem deliver_keeps {s t : State} {ev : Event} (h : deliver s ev = .next t) : Keeps s t := by
  rcases deliver_next h with ⟨hv, ev', g, ⟨c, hh⟩ | ht⟩ | ⟨hm, ip, cs, u, hu, rfl⟩
  · exact enterHandler_keeps hv hh
  · exact enterTask_keeps hv ht
  · obtain ⟨hv, hp⟩ := mode_real_iff.1 hm
    have pu := pushReal_plain hu
    exact ⟨pu.memory, fun hs => modeLegal_of_not_v86 (pu.vm.trans hv) fun _ => pu.cpl.trans (hs.cpl_of_not_pe hp)⟩

theorem raise_keeps {s t : State} {e : Exc} (h : raise s e = .next t) : Keeps s t := by
  obtain ⟨cr2, ev, hd⟩ := raise_next h
  refine Keeps.trans ?_ (deliver_keeps hd)
  exact .of_eq rfl rfl rfl rfl rfl

theorem stopped_keeps {s t : State} {e : Stop} (h : stopped s e = .next t) : Keeps s t := by
  cases e with
  | exc e => exact raise_keeps h
  | refuse r => cases h

/-! The frame of a meaning. -/

theorem run_keeps {s t : State} {l : Bool} {body : State → M State} (hb : ∀ u, body s.begin = .ok u → Keeps s.begin u)
    (h : run s l body = .next t) : Keeps s t := by
  rcases run_next h with ⟨u, hu, rfl⟩ | ⟨e, he⟩
  · exact (plain_begin s).keeps.trans ((hb u hu).trans (plain_retire ..).keeps)
  · exact raise_keeps he

theorem run_keeps_of_plain {s t : State} {l : Bool} {body : State → M State}
    (hb : ∀ u, body s.begin = .ok u → Plain s.begin u) (h : run s l body = .next t) : Keeps s t :=
  run_keeps (fun u hu => (hb u hu).keeps) h

/-- A privileged instruction has its effects where it may execute only. -/
theorem run_privileged_keeps {s t : State} {body : State → M State}
    (hb : ∀ u, MayUsePrivileged s.begin → body s.begin = .ok u → Keeps s.begin u)
    (h : run s false (fun s => do privileged s; body s) = .next t) : Keeps s t := by
  refine run_keeps (fun u hu => ?_) h
  obtain ⟨x, hp, hu⟩ := bind_eq_ok.1 hu
  exact hb u (mayUsePrivileged_of_ok hp) hu

theorem runJump_keeps {s t : State} {body : State → M State} (hb : ∀ u, body s.begin = .ok u → Keeps s.begin u)
    (h : runJump s body = .next t) : Keeps s t := by
  rcases runJump_next h with ⟨u, hu, rfl⟩ | ⟨e, he⟩
  · exact (plain_begin s).keeps.trans ((hb u hu).trans (.of_eq rfl rfl rfl rfl rfl))
  · exact raise_keeps he

/-- What an instruction that answers a next state did: it completed, or it stopped and its exception was delivered. -/
theorem finish_next {s t : State} {x : M State} (h : finish s x = .next t) : x = .ok t ∨ ∃ e, stopped s e = .next t := by
  cases x with
  | ok u => cases h; exact .inl rfl
  | error e => exact .inr ⟨e, h⟩

theorem runString_keeps {s t : State} {op : StringIo} {n : Nat} {once : State → Nat → M State}
    (honce : ∀ u, once s.begin n = .ok u → Plain s.begin u) (h : runString op s n once = .next t) : Keeps s t := by
  rcases finish_next h with hx | ⟨e, he⟩
  case inr => exact stopped_keeps he
  obtain ⟨-, -, hx⟩ := bind_eq_ok.1 hx
  refine ((plain_begin s).trans ?_).keeps
  split at hx
  · obtain ⟨u, hu, hx⟩ := bind_eq_ok.1 hx
    cases hx
    exact (honce u hu).trans (plain_retire ..)
  · split at hx
    · obtain ⟨-, -, hx⟩ := bind_eq_ok.1 hx
      cases hx
      exact .of_eq rfl rfl rfl rfl rfl
    · obtain ⟨u, hu, hx⟩ := bind_eq_ok.1 hx
      have hp := (honce u hu).trans (plain_setStringReg u .ecx (s.stringReg .ecx - 1))
      dsimp only at hx
      split at hx
      · cases hx; exact hp.trans (plain_retire ..)
      · cases hx; exact hp.trans (plain_betweenIterations ..)

/-! The instructions whose effects take more than one operation. -/

theorem execXchg_keeps {s t : State} {dst : Rm Reg} {src : Reg} (h : execXchg dst src s = .next t) : Keeps s t := by
  refine run_keeps_of_plain (fun u hu => ?_) h
  simp only [bind_eq_ok] at hu
  obtain ⟨v, -, w, hw, hu⟩ := hu
  cases hu
  exact (writeRmW_plain hw).trans (plain_setRegW ..)

theorem execMovSregRm_keeps {s t : State} {sreg : BitVec 3} {src : Rm Reg} (h : execMovSregRm sreg src s = .next t) :
    Keeps s t := by
  refine run_keeps (fun u hu => ?_) h
  split at hu
  · cases hu
  · cases hu
  · simp only [bind_eq_ok] at hu
    obtain ⟨v, -, w, hw, hu⟩ := hu
    split at hu
    · cases hu; exact (loadSeg_keeps hw).trans (.of_eq rfl rfl rfl rfl rfl)
    · cases hu; exact loadSeg_keeps hw

theorem execMovRmSreg_keeps {s t : State} {dst : Rm Reg} {sreg : BitVec 3} (h : execMovRmSreg dst sreg s = .next t) :
    Keeps s t := by
  refine run_keeps_of_plain (fun u hu => ?_) h
  split at hu
  · cases hu
  · split at hu
    · exact memWrite_plain hu
    · split at hu
      · cases hu; exact .of_eq rfl rfl rfl rfl rfl
      · cases hu; exact plain_setReg16 ..

/-- MOV to a control register and LMSW may turn protection on and off, at CPL 0. -/
theorem execMovToCr_keeps {s t : State} {cr : BitVec 3} {src : Reg} (h : execMovToCr cr src s = .next t) : Keeps s t := by
  refine run_privileged_keeps (fun u hp hu => ?_) h
  simp only [bind_eq_ok] at hu
  obtain ⟨c, -, -, -, hu⟩ := hu
  cases hu
  exact keeps_ctrl c hp

theorem execLmsw_keeps {s t : State} {src : Rm Reg} (h : execLmsw src s = .next t) : Keeps s t := by
  refine run_privileged_keeps (fun u hp hu => ?_) h
  obtain ⟨v, -, hu⟩ := bind_eq_ok.1 hu
  cases hu
  exact keeps_ctrl _ hp

/-! The instructions that change EFLAGS as a whole. -/

theorem popfFlags_vm (s : State) (image : Dword) : (popfFlags s image).vm = s.eflags.vm := by
  unfold popfFlags
  cases s.op32 <;> rfl

theorem execPushf_keeps {s t : State} (h : execPushf s = .next t) : Keeps s t := by
  refine run_keeps_of_plain (fun u hu => ?_) h
  obtain ⟨-, -, hu⟩ := bind_eq_ok.1 hu
  exact push_plain hu

theorem execPopf_keeps {s t : State} (h : execPopf s = .next t) : Keeps s t := by
  refine run_keeps_of_plain (fun u hu => ?_) h
  simp only [bind_eq_ok] at hu
  obtain ⟨-, -, ⟨v, w⟩, hw, hu⟩ := hu
  cases hu
  obtain ⟨pas, -, -, rfl⟩ := pop_eq_ok.1 hw
  have hp := plain_setStackPtr s.begin (s.begin.stackPtr + BitVec.ofNat 32 s.begin.opBytes)
  exact ⟨hp.memory, hp.segs, popfFlags_vm .., hp.pe, hp.cpl⟩

/-- IRET in V86 mode and in real-address mode leaves VM and loads CS by the 8086 rule (R106). -/
theorem iret8086_keeps {s t : State} (h : iret8086 s = .ok t) : Keeps s t := by
  simp only [iret8086, bind_eq_ok] at h
  obtain ⟨-, -, ip, -, cs, -, fl, -, h⟩ := h
  split at h
  · cases h
  · cases h
    have hp := plain_setStackPtr s (s.stackPtr + BitVec.ofNat 32 (3 * s.opBytes))
    refine (hp.keeps.trans (keeps_setSeg .cs fun _ => ⟨cs.setWidth 16, rfl⟩)).trans ?_
    exact .of_eq rfl rfl hp.vm.symm rfl rfl

/-- The entry into V86 mode has CPL 3 and loads every segment register by the 8086 rule (R107). -/
theorem iretToV86_keeps {s t : State} (hpe : s.pe = true) (h : iretToV86 s = .ok t) : Keeps s t := by
  simp only [iretToV86, bind_eq_ok] at h
  obtain ⟨-, -, eip, -, cs, -, fl, -, h⟩ := h
  split at h
  case isFalse => cases h
  simp only [bind_eq_ok] at h
  obtain ⟨-, -, esp, -, ss, -, es, -, ds, -, fs, -, gs, -, h⟩ := h
  split at h
  · cases h
  · cases h
    refine ⟨id, fun _ => modeLegal_iff.2 ⟨fun _ => ⟨hpe, rfl, fun r => by cases r <;> rfl⟩, fun hp => ?_⟩⟩
    exact absurd hpe (by simpa [State.pe] using hp)

theorem iretTask_keeps {s t : State} (hpe : s.pe = true) (h : iretTask s = .ok t) : Keeps s t := by
  simp only [iretTask, bind_eq_ok] at h
  obtain ⟨link, -, u, hu, h⟩ := h
  cases h
  exact (taskSwitch_keeps (fun _ => hpe) hu).trans (.of_eq rfl rfl rfl rfl rfl)

theorem iretProtected_keeps {s t : State} (hpe : s.pe = true) (h : iretProtected s = .ok t) : Keeps s t := by
  unfold iretProtected at h
  split at h
  · exact iretTask_keeps hpe h
  · split at h
    · exact iretToV86_keeps hpe h
    · cases h

theorem execIret_keeps {s t : State} (h : execIret s = .next t) : Keeps s t := by
  refine runJump_keeps (fun u hu => ?_) h
  obtain ⟨-, -, hu⟩ := bind_eq_ok.1 hu
  split at hu
  · rename_i hm
    exact iretProtected_keeps (mode_prot_iff.1 hm).2 hu
  · exact iret8086_keeps hu

theorem softInterrupt_keeps {s t : State} {n : Byte} (h : softInterrupt s n = .next t) : Keeps s t := by
  unfold softInterrupt at h
  dsimp only at h
  split at h
  · split at h
    · exact stopped_keeps h
    · split at h
      · exact raise_keeps h
      · exact deliver_keeps h
  · exact deliver_keeps h

theorem execIntN_keeps {s t : State} {n : Byte} (h : execIntN n s = .next t) : Keeps s t := by
  unfold execIntN at h
  split at h
  · exact softInterrupt_keeps h
  · exact stopped_keeps h

/-! Every instruction, and a step. -/

theorem exec_keeps {i : Instr} {s t : State} (h : exec i s = .next t) : Keeps s t := by
  unfold exec at h
  cases i with
  | cli | sti =>
    refine run_keeps_of_plain (fun u hu => ?_) h
    obtain ⟨-, -, hu⟩ := bind_eq_ok.1 hu
    cases hu
    exact .of_eq rfl rfl rfl rfl rfl
  | pushf => exact execPushf_keeps h
  | popf => exact execPopf_keeps h
  | intN => exact execIntN_keeps h
  | iret => exact execIret_keeps h
  | inAlImm | inAlDx => exact run_keeps_of_plain (fun _ hu => inByte_plain hu) h
  | inAxImm | inAxDx => exact run_keeps_of_plain (fun _ hu => inWide_plain hu) h
  | outImmAl | outDxAl => exact run_keeps_of_plain (fun _ hu => outByte_plain hu) h
  | outImmAx | outDxAx => exact run_keeps_of_plain (fun _ hu => outWide_plain hu) h
  | insb | insw => exact runString_keeps (fun _ hu => insOnce_plain hu) h
  | outsb | outsw => exact runString_keeps (fun _ hu => outsOnce_plain hu) h
  | lmsw => exact execLmsw_keeps h
  | movToCr => exact execMovToCr_keeps h
  | clts => exact run_privileged_keeps (fun _ hp hu => by cases hu; exact keeps_ctrl _ hp) h
  | hlt | invd | wbinvd | invlpg =>
    refine run_privileged_keeps (fun u _ hu => ?_) h
    cases hu
    exact .of_eq rfl rfl rfl rfl rfl
  | lidt | lgdt | movFromCr | movFromDr | movFromTr | movToDr | movToTr =>
    refine run_privileged_keeps (fun u _ hu => ?_) h
    obtain ⟨v, -, hu⟩ := bind_eq_ok.1 hu
    cases hu
    exact .of_eq rfl rfl rfl rfl rfl
  | push => exact run_keeps_of_plain (fun _ hu => push_plain hu) h
  | movRRm =>
    refine run_keeps_of_plain (fun u hu => ?_) h
    obtain ⟨v, -, hu⟩ := bind_eq_ok.1 hu
    cases hu
    exact plain_setRegW ..
  | movRmR => exact run_keeps_of_plain (fun _ hu => writeRmW_plain hu) h
  | xchg => exact execXchg_keeps h
  | movSregRm => exact execMovSregRm_keeps h
  | movRmSreg => exact execMovRmSreg_keeps h
  | div8 | idiv8 =>
    refine run_keeps_of_plain (fun u hu => ?_) h
    simp only [bind_eq_ok] at hu
    obtain ⟨d, -, ⟨q, r⟩, -, hu⟩ := hu
    cases hu
    exact (plain_setReg8 ..).trans ((plain_setReg8 ..).trans (plain_divided _))
  | divW | idivW =>
    refine run_keeps_of_plain (fun u hu => ?_) h
    simp only [bind_eq_ok] at hu
    obtain ⟨d, -, ⟨q, r⟩, -, hu⟩ := hu
    cases hu
    exact (plain_setRegW ..).trans ((plain_setRegW ..).trans (plain_divided _))
  | rol8One | rol8Cl | rol8Imm | ror8One | ror8Cl | ror8Imm | rcl8One | rcl8Cl | rcl8Imm | rcr8One | rcr8Cl | rcr8Imm
  | shl8One | shl8Cl | shl8Imm | shr8One | shr8Cl | shr8Imm | sar8One | sar8Cl | sar8Imm =>
    exact run_keeps_of_plain (fun _ hu => shift8_plain hu) h
  | rolWOne | rolWCl | rolWImm | rorWOne | rorWCl | rorWImm | rclWOne | rclWCl | rclWImm | rcrWOne | rcrWCl | rcrWImm
  | shlWOne | shlWCl | shlWImm | shrWOne | shrWCl | shrWImm | sarWOne | sarWCl | sarWImm =>
    exact run_keeps_of_plain (fun _ hu => shiftW_plain hu) h
  | opSizePfx | addrSizePfx | esPfx | csPfx | ssPfx | dsPfx | fsPfx | gsPfx | lockPfx | repnePfx | repPfx =>
    cases h
    exact .of_eq rfl rfl rfl rfl rfl

theorem escOutcome_keeps {s t : State} (h : escOutcome s = .next t) : Keeps s t := by
  unfold escOutcome at h
  split at h
  · refine Keeps.trans ?_ (deliver_keeps h)
    exact .of_eq rfl rfl rfl rfl rfl
  · split at h
    · exact stopped_keeps h
    · cases h

theorem unsupportedOutcome_keeps {s t : State} (h : unsupportedOutcome s = .next t) : Keeps s t := by
  unfold unsupportedOutcome at h
  split at h
  · cases h
  · split at h
    · exact stopped_keeps h
    · exact raise_keeps h

theorem noRuleOutcome_keeps {s t : State} {l : Bool} (h : noRuleOutcome s l = .next t) : Keeps s t := by
  unfold noRuleOutcome at h
  split at h
  · exact stopped_keeps h
  · cases h

/-- Fetching and decoding changes the count of bytes only. -/
theorem fetchDecode_execute_keeps {i : Instr} {s v : State} (h : fetchDecode s = .execute i v) : Keeps s v := by
  unfold fetchDecode at h
  split at h <;> cases h
  exact .of_eq rfl rfl rfl rfl rfl

/-- What decoding answers without an instruction to execute is the delivery of an event. -/
theorem fetchDecode_outcome_keeps {s t : State} (h : fetchDecode s = .outcome (.next t)) : Keeps s t := by
  unfold fetchDecode at h
  split at h <;> simp only [Fetched.outcome.injEq, reduceCtorEq] at h
  · exact stopped_keeps h
  · exact unsupportedOutcome_keeps h
  · exact noRuleOutcome_keeps h
  · exact escOutcome_keeps h

theorem nextInstruction_execute_keeps {i : Instr} {s v : State} (h : nextInstruction s = .execute i v) : Keeps s v := by
  rcases nextInstruction_cases s with ⟨-, e⟩ | ⟨r, -, e⟩
  · exact fetchDecode_execute_keeps (e.symm.trans h)
  · cases e.symm.trans h
    exact .of_eq rfl rfl rfl rfl rfl

theorem nextInstruction_outcome_keeps {s t : State} (h : nextInstruction s = .outcome (.next t)) : Keeps s t := by
  rcases nextInstruction_cases s with ⟨-, e⟩ | ⟨r, -, e⟩
  · exact fetchDecode_outcome_keeps (e.symm.trans h)
  · cases e.symm.trans h

theorem absorb_keeps {s t : State} (h : absorb s = .ok t) : Keeps s t := by
  obtain ⟨⟨mem, irqs, np, fp, draws, evs, rfl⟩, hm⟩ := absorb_ok h
  exact Plain.keeps ⟨hm, rfl, rfl, rfl, rfl⟩

theorem takeEvent_keeps {s t : State} (h : takeEvent s = some (.next t)) : Keeps s t := by
  obtain ⟨u, ev, ho, tp, nm, np, irqs, rfl⟩ := takeEvent_some h
  refine Keeps.trans ?_ (deliver_keeps ho.symm)
  exact .of_eq rfl rfl rfl rfl rfl

theorem boundary_go_keeps {s t : State} (h : boundary s = .go t) : Keeps s t := by
  unfold boundary at h
  split at h
  · split at h
    · cases h
    · rename_i u hu
      split at h
      · cases h
      · split at h <;> cases h
        exact absorb_keeps hu
  · cases h; exact .refl s

theorem boundary_outcome_keeps {s t : State} (h : boundary s = .outcome (.next t)) : Keeps s t := by
  unfold boundary at h
  split at h
  · split at h
    · cases h
    · rename_i u hu
      split at h
      · rename_i o ho
        cases h
        exact (absorb_keeps hu).trans (takeEvent_keeps ho)
      · split at h <;> cases h
        exact absorb_keeps hu
  · cases h

/-- Every step keeps the two invariants. -/
theorem step_keeps {s t : State} (h : step s = .next t) : Keeps s t := by
  rcases step_next h with ⟨u, hb, rfl⟩ | ⟨u, hb, ⟨o, ho, rfl⟩ | ⟨i, v, hv, he⟩⟩
  · exact boundary_outcome_keeps hb
  · exact (boundary_go_keeps hb).trans (nextInstruction_outcome_keeps ho)
  · exact (boundary_go_keeps hb).trans ((nextInstruction_execute_keeps hv).trans (exec_keeps he))

/-- Settles O3: the memory part of `Keeps`, along a step. -/
theorem stepKeepsMemoryCanonical : Obligations.StepKeepsMemoryCanonical :=
  fun _ _ hm h => (step_keeps h).memory hm

/-- Settles O4: the mode part of `Keeps`, along a step. -/
theorem stepKeepsModeLegal : Obligations.StepKeepsModeLegal :=
  fun _ _ hm hs h => (step_keeps h).mode ⟨hm, hs⟩

end Sys2Proof.Proofs
end

section
/-! PROOFS. Reset, the general registers, EFLAGS as a word, and instruction boundaries (O1, O2, O16, O48, O58, O60). -/

namespace Sys2Proof.Proofs

open Sys2Proof.Machine Sys2Proof.Safety Sys2Proof.Laws

/-! Reset. -/

theorem reset_dataSeg {r : SReg} (h : r ≠ .cs) : State.reset.seg r = resetSeg := by
  cases r with
  | cs => exact absurd rfl h
  | es | ss | ds | fs | gs => rfl

/-- Settles O1: the data segment registers alike by `reset_dataSeg`, every other value by evaluation. -/
theorem resetState : Obligations.ResetState := by
  refine ⟨rfl, by decide, rfl, rfl, rfl, rfl, fun r hr => ?_, rfl, rfl, rfl, rfl, rfl⟩
  have h := reset_dataSeg hr
  exact ⟨congrArg SegReg.sel h, congrArg SegReg.base h, congrArg SegReg.limit h⟩

/-- Settles O2: memory is empty (`reset_wf`), and the processor is in real-address mode at CPL 0 with nothing fetched. -/
theorem resetMeetsInvariants : Obligations.ResetMeetsInvariants := by
  have hv : State.reset.vm = false := rfl
  have hc : State.reset.cpl = 0 := rfl
  refine ⟨?_, ?_, ?_, rfl⟩
  · rw [memoryOk, reset_wf]; rfl
  · rw [modeOk, hv, hc]; simp
  · rw [segmentsOk, hv]; rfl

/-! The parts of a general register, by arithmetic. -/

theorem append_toNat {m n : Nat} (x : BitVec m) (y : BitVec n) : (x ++ y).toNat = x.toNat * 2 ^ n + y.toNat := by
  rw [BitVec.toNat_append, ← Nat.shiftLeft_add_eq_or_of_lt y.isLt, Nat.shiftLeft_eq]

theorem extract_toNat {w : Nat} (x : BitVec w) (lo n : Nat) : (x.extractLsb' lo n).toNat = x.toNat / 2 ^ lo % 2 ^ n := by
  rw [BitVec.extractLsb'_toNat, Nat.shiftRight_eq_div_pow]

theorem putLow16_eq (old : Dword) (v : Word) : putLow16 old v = BitVec.ofNat 32 (old.toNat / 2 ^ 16 * 2 ^ 16 + v.toNat) := by
  apply BitVec.eq_of_toNat_eq
  rw [putLow16, append_toNat, extract_toNat, BitVec.toNat_ofNat]
  omega

theorem putLow8_eq (old : Dword) (v : Byte) : putLow8 old v = BitVec.ofNat 32 (old.toNat / 2 ^ 8 * 2 ^ 8 + v.toNat) := by
  apply BitVec.eq_of_toNat_eq
  rw [putLow8, append_toNat, extract_toNat, BitVec.toNat_ofNat]
  omega

theorem putHigh8_eq (old : Dword) (v : Byte) :
    putHigh8 old v = BitVec.ofNat 32 (old.toNat / 2 ^ 16 * 2 ^ 16 + v.toNat * 2 ^ 8 + old.toNat % 2 ^ 8) := by
  apply BitVec.eq_of_toNat_eq
  rw [putHigh8, append_toNat, append_toNat, extract_toNat, extract_toNat, BitVec.toNat_ofNat]
  omega

theorem reg8_low {s : State} {p : Reg8} (h : isHighReg p = false) :
    (s.reg8 p).toNat = (s.reg (wholeReg p)).toNat % 2 ^ 8 ∧
      ∀ v, s.setReg8 p v = s.setReg (wholeReg p) (BitVec.ofNat 32 ((s.reg (wholeReg p)).toNat / 2 ^ 8 * 2 ^ 8 + v.toNat)) := by
  constructor
  · rw [State.reg8, h, if_neg Bool.false_ne_true, extract_toNat]
    simp [State.reg]
  · intro v
    rw [State.setReg8, h, if_neg Bool.false_ne_true, putLow8_eq]

theorem reg8_high {s : State} {p : Reg8} (h : isHighReg p = true) :
    (s.reg8 p).toNat = (s.reg (wholeReg p)).toNat / 2 ^ 8 % 2 ^ 8 ∧
      ∀ v, s.setReg8 p v = s.setReg (wholeReg p)
        (BitVec.ofNat 32 ((s.reg (wholeReg p)).toNat / 2 ^ 16 * 2 ^ 16 + v.toNat * 2 ^ 8 +
          (s.reg (wholeReg p)).toNat % 2 ^ 8)) := by
  constructor
  · rw [State.reg8, h, if_pos rfl, extract_toNat]
    rfl
  · intro v
    rw [State.setReg8, h, if_pos rfl, putHigh8_eq]

/-- What a register holds after a write to any register. -/
theorem setReg_reg (s : State) (r q : Reg) (v : Dword) : (s.setReg r v).reg q = if q = r then v else s.reg q := by
  split
  · next h => subst h; exact setReg_reg_same ..
  · next h => exact setReg_reg_other s v h

/-- Settles O16, from the arithmetic of `putLow16`, `putLow8` and `putHigh8`. -/
theorem generalRegisterParts : Obligations.GeneralRegisterParts := by
  intro s
  refine ⟨⟨rfl, rfl, rfl, rfl, rfl, rfl, rfl, rfl⟩, fun r v => ⟨rfl, fun q => setReg_reg s r q v⟩, fun r => ?_, fun r v => ?_,
    ?_, ?_, fun r v => ⟨rfl, rfl, ?_, ?_⟩⟩
  · exact BitVec.toNat_setWidth ..
  · rw [State.setReg16, putLow16_eq]
  · intro p hp
    fin_cases hp <;> exact reg8_low rfl
  · intro p hp
    fin_cases hp <;> exact reg8_high rfl
  · show ((s.reg16 r).setWidth 32).toNat = _
    exact BitVec.toNat_setWidth_of_le (by decide)
  · have hv : v.setWidth 16 = BitVec.ofNat 16 (v.toNat % 2 ^ 16) := by
      apply BitVec.eq_of_toNat_eq
      simp
    rw [← hv]
    rfl

/-! EFLAGS as a word, bit by bit. -/

theorem word_flags (f : Eflags) :
    f.word.getLsbD 0 = f.cf ∧ f.word.getLsbD 2 = f.pf ∧ f.word.getLsbD 4 = f.af ∧ f.word.getLsbD 6 = f.zf ∧
      f.word.getLsbD 7 = f.sf ∧ f.word.getLsbD 8 = f.tf ∧ f.word.getLsbD 9 = f.intf ∧ f.word.getLsbD 10 = f.df ∧
      f.word.getLsbD 11 = f.of ∧ f.word.getLsbD 14 = f.nt ∧ f.word.getLsbD 15 = false ∧
      f.word.getLsbD 16 = f.rf ∧ f.word.getLsbD 17 = f.vm ∧ f.word.getLsbD 18 = f.ac := by
  simp only [Eflags.word, BitVec.getLsbD_append]
  simp

theorem word_iopl (f : Eflags) : f.word.extractLsb' 12 2 = f.iopl := by
  apply BitVec.eq_of_getLsbD_eq
  intro i hi
  rw [BitVec.getLsbD_extractLsb']
  simp only [Eflags.word, BitVec.getLsbD_append]
  interval_cases i <;> simp

theorem ofWord_word (f : Eflags) : Eflags.ofWord f.word = f := by
  obtain ⟨cf, pf, af, zf, sf, tf, intf, df, of, nt, -, rf, vm, ac⟩ := word_flags f
  unfold Eflags.ofWord
  rw [cf, pf, af, zf, sf, tf, intf, df, of, nt, rf, vm, ac, word_iopl]

theorem word_ofWord (w : Dword) : (Eflags.ofWord w).word = (w &&& 0x00077FD7) ||| 2 := by
  apply BitVec.eq_of_getLsbD_eq
  intro i hi
  rw [BitVec.getLsbD_or, BitVec.getLsbD_and]
  simp only [Eflags.word, Eflags.ofWord, BitVec.getLsbD_append]
  interval_cases i <;> simp

/-- Settles O48, from the flags and IOPL of `Eflags.word`. -/
theorem eflagsLayout : Obligations.EflagsLayout := by
  refine ⟨ofWord_word, word_ofWord, fun f => ?_⟩
  obtain ⟨cf, pf, af, zf, sf, tf, intf, df, of, high⟩ := word_flags f
  exact ⟨cf, pf, af, zf, sf, tf, intf, df, of, word_iopl f, high⟩

/-! What the environment offers at a boundary. -/

/-- After the writes of other bus masters a byte holds the latest one written to it, else what it held. -/
theorem read_busWrite {m : Memory} (ws : List Host.Cell) (a : Nat) (hm : m.wf = true) :
    (busWrite m ws).read a = (((ws.filter fun c => c.1 == a).getLast?).map (·.2)).getD (m.read a) := by
  induction ws generalizing m with
  | nil => rfl
  | cons c ws ih =>
    have ih' := ih (write_wf c.1 c.2 hm)
    simp only [busWrite, ih', List.filter_cons, beq_iff_eq]
    split
    · next hc =>
      subst hc
      rw [read_write_same _ _ hm, List.getLast?_cons]
      cases (ws.filter fun d => d.1 == c.1).getLast? <;> rfl
    · next hc => rw [read_write_other _ _ (Ne.symm hc)]

theorem badBusAddress_none {ws : List Host.Cell} (h : ∀ c ∈ ws, c.1 < 2 ^ 32) : badBusAddress ws = none := by
  simpa [badBusAddress] using fun a b hb => h (a, b) hb

/-- The address that a bus master's fault names is one that it wrote to. -/
theorem badBusAddress_some {ws : List Host.Cell} (h : ∃ c ∈ ws, 2 ^ 32 ≤ c.1) :
    ∃ c ∈ ws, 2 ^ 32 ≤ c.1 ∧ badBusAddress ws = some c.1 := by
  obtain ⟨c, hc, hb⟩ := h
  cases hf : badBusAddress ws with
  | none =>
    exact absurd (decide_eq_true hb) (List.find?_eq_none.1 hf c.1 (List.mem_map_of_mem hc))
  | some a =>
    obtain ⟨d, hd, rfl⟩ := List.mem_map.1 (List.mem_of_find?_eq_some hf)
    exact ⟨d, hd, by simpa using List.find?_some hf, rfl⟩

theorem absorb_nil {s : State} (h : s.extEvents = []) : absorb s = .ok s := by
  unfold absorb
  rw [h]

theorem absorb_cons {s : State} {o : Offer} {rest : List Offer} (h : s.extEvents = o :: rest)
    (hw : badBusAddress o.busWrites = none) : absorb s = .ok ({ s with extEvents := rest }.withOffer o) := by
  unfold absorb
  rw [h]
  dsimp only
  rw [hw]

theorem absorb_fault {s : State} {o : Offer} {rest : List Offer} {a : Nat} (h : s.extEvents = o :: rest)
    (hw : badBusAddress o.busWrites = some a) : absorb s = .error (.busAddress a) := by
  unfold absorb
  rw [h]
  dsimp only
  rw [hw]

theorem step_of_absorb_error {s : State} {f : Fault} (hl : s.ilen = 0) (h : absorb s = .error f) : step s = .fault f := by
  unfold step boundary
  rw [if_pos hl, h]

/-- Settles O58: the cases of `absorb`, and `read_busWrite` for the bytes of memory. -/
theorem boundaryTakesOffer : Obligations.BoundaryTakesOffer := by
  intro s hl
  refine ⟨absorb_nil, fun o rest ho => ⟨fun hw => ?_, fun hbad => ?_⟩⟩
  · refine ⟨_, absorb_cons ho (badBusAddress_none hw), ?_, fun hm a => ?_⟩
    · have hd : s.draws + (o.nmi && s.nmiMasked).toNat = if o.nmi && s.nmiMasked then s.draws + 1 else s.draws := by
        cases o.nmi && s.nmiMasked <;> rfl
      rw [hd]
      rfl
    · simp only [memoryOk, Bool.and_eq_true] at hm
      refine (read_busWrite o.busWrites a hm.1).trans ?_
      cases (o.busWrites.filter fun c => c.1 == a).getLast? <;> rfl
  · obtain ⟨c, hc, hr, hb⟩ := badBusAddress_some hbad
    exact ⟨c, hc, hr, step_of_absorb_error hl (absorb_fault ho hb)⟩

/-! A boundary at which no event is taken. -/

theorem takeEvent_none {s : State} (ht : s.takesTrap = false) (hn : s.takesNmi = false)
    (hi : s.acceptsIrq = false ∨ s.irqs = []) : takeEvent s = none := by
  unfold takeEvent
  rw [ht, hn]
  rcases hi with hi | hi
  · rw [hi]; rfl
  · rw [hi]; cases s.acceptsIrq <;> rfl

theorem boundary_of_takeEvent_none {s u : State} (hl : s.ilen = 0) (ha : absorb s = .ok u) (he : takeEvent u = none) :
    boundary s = if u.halted then .outcome (.next u) else .go u := by
  unfold boundary
  rw [if_pos hl, ha]
  dsimp only
  rw [he]

/-- Settles O60: each event is held back by its own condition, and the boundary goes on. -/
theorem maskedEventsStayPending : Obligations.MaskedEventsStayPending := by
  intro s u hl ha htrap hnmi hirq
  have ht : u.takesTrap = false := by
    rcases htrap with h | h <;> simp [State.takesTrap, h]
  have hn : u.takesNmi = false := by
    rcases hnmi with h | h | h <;> simp [State.takesNmi, h]
  have hi : u.acceptsIrq = false ∨ u.irqs = [] := by
    rcases hirq with h | h | h | h
    · exact .inr h
    all_goals exact .inl (by simp [State.acceptsIrq, h])
  unfold step
  rw [boundary_of_takeEvent_none hl ha (takeEvent_none ht hn hi)]
  cases u.halted <;> rfl

end Sys2Proof.Proofs
end

section
/-! PROOFS. Linear addresses, stores and loads, and accesses that fault (O49, O50, O51). That an instruction stops with what its
access to memory stops with is shown once, over `Reaches`; O50 adds what such an access stops with. -/

namespace Sys2Proof.Proofs

open Sys2Proof.Machine Sys2Proof.Safety Sys2Proof.Laws

/-! Linear addresses. -/

theorem seg_of_segmentsOk {s : State} (hv : s.vm = true) (hs : segmentsOk s = true) (r : SReg) :
    s.seg r = seg8086 (s.sel r) := by
  simp only [segmentsOk, hv, Bool.not_true, Bool.false_or, List.all_eq_true, beq_iff_eq] at hs
  exact hs r (by cases r <;> decide)

/-- The base that the 8086 rule gives is 16 times the selector, without a carry out of 32 bits (R41). -/
theorem seg8086_base_toNat (sel : Word) : (seg8086 sel).base.toNat = sel.toNat * 16 := by
  have hlt := sel.isLt
  simp only [seg8086, BitVec.toNat_shiftLeft, BitVec.toNat_setWidth, Nat.shiftLeft_eq]
  omega

/-- Settles O49: neither the base nor its sum with a 16-bit offset wraps. -/
theorem linearAddressRange : Obligations.LinearAddressRange := by
  intro s r off hv hs
  have hsel := (s.sel r).isLt
  have hoff := off.isLt
  have hlin : (s.lin r (off.setWidth 32)).toNat = (s.sel r).toNat * 16 + off.toNat := by
    simp only [State.lin, seg_of_segmentsOk hv hs, BitVec.toNat_add, seg8086_base_toNat, BitVec.toNat_setWidth]
    omega
  exact ⟨hlin, by omega⟩

/-! What a store leaves in memory, and what a load gives back. -/

/-- Each of the distinct addresses stored to holds its byte of the value (R55). -/
theorem read_writeAll_get {m : Memory} {pas : List Nat} (v : Dword) (hm : m.wf = true) (hd : pas.Nodup) (i : Nat)
    (hi : i < pas.length) : (m.writeAll pas v).read pas[i] = (v >>> (8 * i)).setWidth 8 := by
  induction pas generalizing m v i with
  | nil => simp at hi
  | cons a as ih =>
    obtain ⟨ha, hd⟩ := List.nodup_cons.1 hd
    cases i with
    | zero => simpa using read_writeAll_head v hm ha
    | succ i =>
      have h := ih (v >>> 8) (write_wf a (v.setWidth 8) hm) hd i (by simpa using hi)
      rwa [← BitVec.shiftRight_add, show 8 + 8 * i = 8 * (i + 1) by omega] at h

/-- The low bytes of a value are its lowest-order byte below the low bytes of the rest. -/
theorem lowBytes_succ (n : Nat) (v : Dword) :
    lowBytes (n + 1) v = (lowBytes n (v >>> 8) <<< 8) ||| (v.setWidth 8).setWidth 32 := by
  ext i hi
  by_cases h8 : i < 8
  · simp [lowBytes, h8, hi, show i < 8 * (n + 1) by omega]
  · have hrest : i < 8 * (n + 1) ↔ i - 8 < 8 * n := by omega
    simp [lowBytes, h8, hi, hrest, show i - 8 < 32 by omega, show 8 + (i - 8) = i by omega]

/-- A load from the distinct addresses of a store gives the low bytes of the value stored. -/
theorem readAll_writeAll {m : Memory} {pas : List Nat} (v : Dword) (hm : m.wf = true) (hd : pas.Nodup) :
    (m.writeAll pas v).readAll pas = lowBytes pas.length v := by
  induction pas generalizing m v with
  | nil => simp [Memory.readAll, lowBytes, BitVec.of_length_zero]
  | cons a as ih =>
    obtain ⟨ha, hd⟩ := List.nodup_cons.1 hd
    have hrest := ih (v >>> 8) (write_wf a (v.setWidth 8) hm) hd
    rw [Memory.readAll, read_writeAll_head v hm ha, Memory.writeAll, hrest, List.length_cons, lowBytes_succ]

/-- The physical addresses of `n` consecutive bytes with paging off, as `physAddrs_off` gives them. -/
def consecutive (la : Dword) (n : Nat) : List Nat := (List.range n).map fun i => (la + BitVec.ofNat 32 i).toNat

@[simp] theorem consecutive_length (la : Dword) (n : Nat) : (consecutive la n).length = n := by simp [consecutive]

@[simp] theorem consecutive_get (la : Dword) (n i : Nat) (h : i < (consecutive la n).length) :
    (consecutive la n)[i] = (la + BitVec.ofNat 32 i).toNat := by simp [consecutive]

theorem mem_consecutive {la : Dword} {n a : Nat} :
    a ∈ consecutive la n ↔ ∃ i, i < n ∧ a = (la + BitVec.ofNat 32 i).toNat := by
  simp [consecutive, eq_comm]

/-- An access that does not reach round the address space goes to distinct bytes. -/
theorem consecutive_nodup (la : Dword) {n : Nat} (hn : n ≤ 2 ^ 32) : (consecutive la n).Nodup := by
  refine List.Nodup.map_on (fun i hi j hj h => ?_) List.nodup_range
  rw [List.mem_range] at hi hj
  have hij := congrArg BitVec.toNat (BitVec.add_right_inj la |>.1 (BitVec.eq_of_toNat_eq h))
  simp only [BitVec.toNat_ofNat] at hij
  omega

/-- With paging off an access that the segment and the alignment allow goes to consecutive bytes (R44). -/
theorem accesses_consecutive {s : State} (k : Access) {r : SReg} {off : Dword} {n : Nat} (hp : s.pg = false)
    (hin : s.inSegment r off n = true) (hal : s.alignmentTrap (s.lin r off) n = false) :
    Accesses s k r off n (consecutive (s.lin r off) n) :=
  ⟨hin, hal, physAddrs_off k s.priv (s.lin r off) n hp⟩

/-- Settles O51: the consecutive addresses are distinct, so the rules of `writeAll` apply to them. -/
theorem storeThenLoad : Obligations.StoreThenLoad := by
  refine ⟨fun s pas v a ha => read_writeAll_other s.mem pas v ha, fun s r off v n hp hin hal hn hmem => ?_⟩
  have hwf : s.mem.wf = true := by
    simp only [memoryOk, Bool.and_eq_true] at hmem
    exact hmem.1
  have hd : (consecutive (s.lin r off) n).Nodup := consecutive_nodup _ (by omega)
  refine ⟨_, memWrite_eq_ok.2 ⟨_, accesses_consecutive .write hp hin hal, rfl⟩, fun i hi => ?_, fun a ha => ?_, ?_⟩
  · have h := read_writeAll_get v hwf hd i (by simpa using hi)
    rwa [consecutive_get] at h
  · refine read_writeAll_other s.mem _ v fun h => ?_
    obtain ⟨i, hi, e⟩ := mem_consecutive.1 h
    exact ha i hi e
  · refine memRead_eq_ok.2 ⟨_, accesses_consecutive .read hp hin hal, ?_⟩
    have h := readAll_writeAll v hwf hd
    rw [consecutive_length] at h
    exact h.symm

/-! The addresses of an access, or what it stops with: a read and a write differ in what they do with them only. -/

/-- The checks and the translation that `memRead` and `memWrite` begin with (R63). -/
def accessAddrs (s : State) (k : Access) (r : SReg) (off : Dword) (n : Nat) : M (List Nat) := do
  checkOff s r off n
  checkAlign s (s.lin r off) n
  physAddrs s k s.priv (s.lin r off) n

theorem memRead_eq (s : State) (r : SReg) (off : Dword) (n : Nat) :
    memRead s r off n = accessAddrs s .read r off n >>= fun pas => .ok (s.mem.readAll pas) := by
  simp only [memRead, linRead, accessAddrs, bind_assoc]

theorem memWrite_eq (s : State) (r : SReg) (off v : Dword) (n : Nat) :
    memWrite s r off n v = accessAddrs s .write r off n >>= fun pas => .ok (s.storeAt pas v) := by
  simp only [memWrite, linWrite, accessAddrs, bind_assoc]

/-- An instruction's effects begin after the shadows end, which no access depends on. -/
theorem accessAddrs_begin (s : State) (k : Access) (r : SReg) (off : Dword) (n : Nat) :
    accessAddrs s.begin k r off n = accessAddrs s k r off n :=
  congrArg (fun x => checkOff s r off n >>= fun _ => checkAlign s (s.lin r off) n >>= fun _ => x)
    (physAddrs_congr (s := s) (t := s.begin) k s.priv (s.lin r off) n rfl rfl)

theorem memRead_begin_error {s : State} {r : SReg} {off : Dword} {n : Nat} {e : Stop}
    (h : accessAddrs s .read r off n = .error e) : memRead s.begin r off n = .error e := by
  rw [memRead_eq, accessAddrs_begin]
  exact error_bind _ h

theorem memWrite_begin_error {s : State} {r : SReg} {off : Dword} {n : Nat} {e : Stop}
    (h : accessAddrs s .write r off n = .error e) (v : Dword) : memWrite s.begin r off n v = .error e := by
  rw [memWrite_eq, accessAddrs_begin]
  exact error_bind _ h

/-! What an access stops with. -/

theorem inSegment_v86 {s : State} (hv : s.vm = true) (r : SReg) (off : Dword) (n : Nat) :
    s.inSegment r off n = decide (off.toNat + n ≤ 0x10000) := by
  simp only [State.inSegment, mode_v86 hv]

theorem accessAddrs_past_end {s : State} {r : SReg} {off : Dword} {n : Nat} (k : Access) (hv : s.vm = true)
    (h : 0x10000 < off.toNat + n) : accessAddrs s k r off n = .error (.exc (offsetExc r)) := by
  refine error_bind _ (checkOff_error ?_)
  rw [inSegment_v86 hv]
  exact decide_eq_false (by omega)

theorem add_one_add_ofNat (la : Dword) (q : Nat) : la + 1 + BitVec.ofNat 32 q = la + BitVec.ofNat 32 (q + 1) := by
  rw [BitVec.add_assoc, BitVec.add_comm 1, BitVec.ofNat_add]
  rfl

/-- The bytes are translated in order, so the first that fails decides (R63). -/
theorem physAddrs_first_error {s : State} {k : Access} {p : Priv} {la : Dword} {n j : Nat} {e : Stop} (hj : j < n)
    (hok : ∀ q, q < j → ∃ pa, linToPhys s (la + BitVec.ofNat 32 q) k p = .ok pa)
    (he : linToPhys s (la + BitVec.ofNat 32 j) k p = .error e) : physAddrs s k p la n = .error e := by
  induction n generalizing la j with
  | zero => omega
  | succ n ih =>
    cases j with
    | zero => exact error_bind _ (by simpa using he)
    | succ j =>
      obtain ⟨pa, hpa⟩ := hok 0 (by omega)
      have hrest : physAddrs s k p (la + 1) n = .error e := by
        refine ih (j := j) (by omega) (fun q hq => ?_) ?_
        · rw [add_one_add_ofNat]
          exact hok (q + 1) (by omega)
        · rwa [add_one_add_ofNat]
      exact (ok_bind _ (by simpa using hpa)).trans (error_bind _ hrest)

theorem accessAddrs_untranslated {s : State} {k : Access} {r : SReg} {off : Dword} {n j : Nat} {e : Stop}
    (hv : s.vm = true) (hin : off.toNat + n ≤ 0x10000) (hal : s.alignmentTrap (s.lin r off) n = false) (hj : j < n)
    (hok : ∀ q, q < j → ∃ pa, linToPhys s (s.lin r off + BitVec.ofNat 32 q) k .user = .ok pa)
    (he : linToPhys s (s.lin r off + BitVec.ofNat 32 j) k .user = .error e) : accessAddrs s k r off n = .error e := by
  have hpriv : s.priv = .user := if_pos (.inl hv)
  have hoff : checkOff s r off n = .ok () := checkOff_eq_ok.2 ((inSegment_v86 hv r off n).trans (decide_eq_true hin))
  have halign : checkAlign s (s.lin r off) n = .ok () := checkAlign_eq_ok.2 hal
  rw [accessAddrs, ok_bind _ hoff, ok_bind _ halign, hpriv]
  exact physAddrs_first_error hj hok he

/-! The operands, with the shadows ended. -/

theorem pushOff_v86 {s : State} (hv : s.vm = true) (n : Nat) :
    s.pushOff n = (s.reg16 .esp - BitVec.ofNat 16 n).setWidth 32 := by
  simp [State.pushOff, State.stack32, mode_v86 hv]

theorem stackPtr_v86 {s : State} (hv : s.vm = true) : s.stackPtr = (s.reg16 .esp).setWidth 32 := by
  simp [State.stackPtr, State.regW, State.stack32, mode_v86 hv]

section Operands

variable {s : State} {e : Stop}

theorem readRm8_begin_error {m : MemRef} (h : accessAddrs s .read (operandSeg s m) (effAddr s m) 1 = .error e) :
    readRm8 s.begin (.mem m) = .error e :=
  error_bind _ (memRead_begin_error h)

theorem readRm16_begin_error {m : MemRef} (h : accessAddrs s .read (operandSeg s m) (effAddr s m) 2 = .error e) :
    readRm16 s.begin (.mem m) = .error e :=
  error_bind _ (memRead_begin_error h)

theorem readRmW_begin_error {m : MemRef}
    (h : accessAddrs s .read (operandSeg s m) (effAddr s m) s.opBytes = .error e) :
    readRmW s.begin (.mem m) = .error e :=
  memRead_begin_error h

theorem writeRm8_begin_error {m : MemRef} (h : accessAddrs s .write (operandSeg s m) (effAddr s m) 1 = .error e)
    (v : Byte) : writeRm8 s.begin (.mem m) v = .error e :=
  memWrite_begin_error h _

theorem writeRmW_begin_error {m : MemRef}
    (h : accessAddrs s .write (operandSeg s m) (effAddr s m) s.opBytes = .error e) (v : Dword) :
    writeRmW s.begin (.mem m) v = .error e :=
  memWrite_begin_error h v

theorem readRm8_begin_ok {m : MemRef} {pas : List Nat} (h : Accesses s .read (operandSeg s m) (effAddr s m) 1 pas) :
    readRm8 s.begin (.mem m) = .ok ((s.mem.readAll pas).setWidth 8) :=
  readRm8_eq_ok.2 ⟨pas, accesses_begin.2 h, rfl⟩

theorem readRmW_begin_ok {m : MemRef} {pas : List Nat}
    (h : Accesses s .read (operandSeg s m) (effAddr s m) s.opBytes pas) :
    readRmW s.begin (.mem m) = .ok (s.mem.readAll pas) :=
  readRmW_eq_ok.2 ⟨pas, accesses_begin.2 h, rfl⟩

theorem push_begin_error {n : Nat} (hv : s.vm = true)
    (h : accessAddrs s .write .ss ((s.reg16 .esp - BitVec.ofNat 16 n).setWidth 32) n = .error e) (v : Dword) :
    push s.begin n v = .error e := by
  rw [← pushOff_v86 hv] at h
  exact error_bind _ (memWrite_begin_error h v)

theorem pop_begin_error {n : Nat} (hv : s.vm = true)
    (h : accessAddrs s .read .ss ((s.reg16 .esp).setWidth 32) n = .error e) : pop s.begin n = .error e := by
  rw [← stackPtr_v86 hv] at h
  exact error_bind _ (memRead_begin_error h)

end Operands

/-! The shift and rotate instructions. -/

theorem exec_byteShift (op : ShiftOp) (f : CountForm) (dst : Rm Reg8) (s : State) :
    exec (byteShift op f dst) s = run s false fun s => shift8 op dst (f.count s) s := by
  cases op <;> cases f <;> rfl

theorem exec_wideShift (op : ShiftOp) (f : CountForm) (dst : Rm Reg) (s : State) :
    exec (wideShift op f dst) s = run s false fun s => shiftW op dst (f.count s) s := by
  cases op <;> cases f <;> rfl

theorem count_begin (f : CountForm) (s : State) : f.count s.begin = f.count s := rfl

theorem byteShift_ne_xchg (op : ShiftOp) (f : CountForm) (dst : Rm Reg8) (x : Rm Reg) (r : Reg) :
    byteShift op f dst ≠ .xchg x r := by
  cases op <;> cases f <;> nofun

theorem wideShift_ne_xchg (op : ShiftOp) (f : CountForm) (dst x : Rm Reg) (r : Reg) :
    wideShift op f dst ≠ .xchg x r := by
  cases op <;> cases f <;> nofun

/-- The count is masked to five bits (R175). -/
theorem maskCount_eq (count : Byte) : maskCount count = count.toNat % 32 := by
  rw [maskCount, BitVec.toNat_and]
  exact Nat.and_two_pow_sub_one_eq_mod count.toNat 5

theorem shift8_write_error {s : State} {op : ShiftOp} {dst : Rm Reg8} {count d : Byte} {e : Stop}
    (hc : count.toNat % 32 ≠ 0) (hr : readRm8 s dst = .ok d) (hw : ∀ v, writeRm8 s dst v = .error e) :
    shift8 op dst count s = .error e := by
  rw [shift8, ok_bind _ hr, if_neg (maskCount_eq count ▸ hc)]
  exact error_bind _ (hw _)

theorem shiftW_write_error {s : State} {op : ShiftOp} {dst : Rm Reg} {count : Byte} {d : Dword} {e : Stop}
    (hc : count.toNat % 32 ≠ 0) (hr : readRmW s dst = .ok d) (hw : ∀ v, writeRmW s dst v = .error e) :
    shiftW op dst count s = .error e := by
  rw [shiftW, ok_bind _ hr, if_neg (maskCount_eq count ▸ hc)]
  split
  · exact error_bind _ (hw _)
  · exact error_bind _ (hw _)

/-! String I/O. -/

theorem ioBit_begin (s : State) (p : Nat) : ioBit s.begin p = ioBit s p := by
  have hread (la : Dword) : linRead s.begin la 2 .supervisor = linRead s la 2 .supervisor := by
    rw [linRead, linRead, physAddrs_congr .read .supervisor la 2 (begin_ctrl s) (begin_pageMap s), begin_mem]
  simp only [ioBit, hread, begin_tr]

theorem ioCheck_begin_open {s : State} {port : Word} {n : Nat} (hv : s.vm = true) (h : PortsOpen s port.toNat n) :
    ioCheck s.begin port n = .ok () := by
  have hopen : PortsOpen s.begin port.toNat n := by simpa only [PortsOpen, ioBit_begin] using h
  simp only [ioCheck, mode_v86 (show s.begin.vm = true from hv), ioCheckFrom_open hopen]

theorem insOnce_begin_error {s : State} {n : Nat} {e : Stop} (hv : s.vm = true)
    (hp : PortsOpen s (s.reg16 .edx).toNat n) (h : accessAddrs s .write .es (s.stringReg .edi) n = .error e) :
    insOnce s.begin n = .error e :=
  (ok_bind _ (ioCheck_begin_open hv hp)).trans (error_bind _ (memWrite_begin_error h _))

theorem outsOnce_begin_error {s : State} {n : Nat} {e : Stop} (hv : s.vm = true)
    (hp : PortsOpen s (s.reg16 .edx).toNat n)
    (h : accessAddrs s .read (s.pfx.seg.getD .ds) (s.stringReg .esi) n = .error e) : outsOnce s.begin n = .error e :=
  (ok_bind _ (ioCheck_begin_open hv hp)).trans (error_bind _ (memRead_begin_error h))

/-- An iteration that is made and stops, stops the instruction (R133). -/
theorem runString_error {s : State} {op : StringIo} {n : Nat} {once : State → Nat → M State} {e : Stop}
    (hl : lockGuard s false = .ok ()) (hrep : s.pfx.rep = none ∨ s.stringReg .ecx ≠ 0) (h : once s.begin n = .error e) :
    runString op s n once = stopped s e := by
  rw [runString, ok_bind _ hl]
  split
  · rw [error_bind _ h]
    rfl
  · next hsome =>
    have hcx : s.stringReg .ecx ≠ 0 := hrep.resolve_left (by simpa using hsome)
    rw [if_neg hcx, error_bind _ h]
    rfl

/-! An instruction that reaches an access stops with what the access stops with. -/

/-- LOCK, if it was given, is legal and allowed in V86 mode: the instruction is XCHG with memory (R190, R110). -/
def LockAllowed (s : State) (i : Instr) : Prop :=
  s.pfx.lock = true → (∃ m q, i = .xchg (.mem m) q) ∧ (s.iopl = 3 ∨ Config.lockIoplSensitive = false)

theorem LockAllowed.guard {s : State} {i : Instr} (h : LockAllowed s i) (hi : ∀ m q, i ≠ .xchg (.mem m) q) :
    lockGuard s false = .ok () := by
  refine lockGuard_none false (Bool.eq_false_iff.2 fun hl => ?_)
  obtain ⟨⟨m, q, e⟩, -⟩ := h hl
  exact hi m q e

theorem LockAllowed.guard_lockable {s : State} {i : Instr} (h : LockAllowed s i) : lockGuard s true = .ok () := by
  cases hl : s.pfx.lock with
  | false => exact lockGuard_none true hl
  | true =>
    obtain ⟨-, hi | hc⟩ := h hl
    · simp [lockGuard, hi]
    · simp [lockGuard, hc]

theorem sreg_ofNum_isSome (n : BitVec 3) : n.toNat < 6 → (SReg.ofNum n).isSome = true := by decide +revert

theorem sreg_ofNum_cs (n : BitVec 3) : SReg.ofNum n = some .cs → n = 1 := by decide +revert

theorem execMovSregRm_stops {s : State} {n : BitVec 3} {src : Rm Reg} {e : Stop} (hl : lockGuard s false = .ok ())
    (h1 : n ≠ 1) (h6 : n.toNat < 6) (h : readRm16 s.begin src = .error e) : execMovSregRm n src s = stopped s e := by
  obtain ⟨r, hr⟩ := Option.isSome_iff_exists.1 (sreg_ofNum_isSome n h6)
  refine run_error hl ?_
  rw [hr]
  cases r with
  | cs => exact absurd (sreg_ofNum_cs n hr) h1
  | es | ss | ds | fs | gs => exact error_bind _ h

theorem execMovRmSreg_stops {s : State} {n : BitVec 3} {m : MemRef} {e : Stop} (hl : lockGuard s false = .ok ())
    (h6 : n.toNat < 6) (h : ∀ v, writeMem s.begin m 2 v = .error e) : execMovRmSreg (.mem m) n s = stopped s e := by
  obtain ⟨r, hr⟩ := Option.isSome_iff_exists.1 (sreg_ofNum_isSome n h6)
  refine run_error hl ?_
  rw [hr]
  exact h _

/-- The checks before the access have passed, as `Reaches` says, so that its stop is the instruction's. -/
theorem exec_stops_of_reaches {i : Instr} {s : State} {k : Access} {r : SReg} {off : Dword} {n : Nat} {e : Stop}
    (hv : s.vm = true) (hlock : LockAllowed s i) (hr : Reaches s i k r off n)
    (h : accessAddrs s k r off n = .error e) : exec i s = stopped s e := by
  unfold exec
  cases hr with
  | movLoad | divW | idivW =>
    refine run_error (hlock.guard fun _ _ => nofun) ?_
    exact error_bind _ (readRmW_begin_error h)
  | div8 | idiv8 =>
    refine run_error (hlock.guard fun _ _ => nofun) ?_
    exact error_bind _ (readRm8_begin_error h)
  | movStore =>
    refine run_error (hlock.guard fun _ _ => nofun) ?_
    exact writeRmW_begin_error h _
  | xchgRead =>
    refine run_error hlock.guard_lockable ?_
    exact error_bind _ (readRmW_begin_error h)
  | xchgWrite m r pas hread =>
    refine run_error hlock.guard_lockable ?_
    exact (ok_bind _ (readRmW_begin_ok hread)).trans (error_bind _ (writeRmW_begin_error h _))
  | loadSreg n m h1 h6 => exact execMovSregRm_stops (hlock.guard fun _ _ => nofun) h1 h6 (readRm16_begin_error h)
  | storeSreg m n h6 => exact execMovRmSreg_stops (hlock.guard fun _ _ => nofun) h6 (memWrite_begin_error h)
  | byteShiftRead op f m =>
    refine (exec_byteShift ..).trans (run_error (hlock.guard fun _ => byteShift_ne_xchg op f _ _) ?_)
    exact error_bind _ (readRm8_begin_error h)
  | byteShiftWrite op f m pas hc hread =>
    refine (exec_byteShift ..).trans (run_error (hlock.guard fun _ => byteShift_ne_xchg op f _ _) ?_)
    exact shift8_write_error (count_begin f s ▸ hc) (readRm8_begin_ok hread) (writeRm8_begin_error h)
  | wideShiftRead op f m =>
    refine (exec_wideShift ..).trans (run_error (hlock.guard fun _ => wideShift_ne_xchg op f _ _) ?_)
    exact error_bind _ (readRmW_begin_error h)
  | wideShiftWrite op f m pas hc hread =>
    refine (exec_wideShift ..).trans (run_error (hlock.guard fun _ => wideShift_ne_xchg op f _ _) ?_)
    exact shiftW_write_error (count_begin f s ▸ hc) (readRmW_begin_ok hread) (writeRmW_begin_error h)
  | push r =>
    refine run_error (hlock.guard fun _ _ => nofun) ?_
    exact push_begin_error hv h _
  | pushf hi =>
    refine run_error (hlock.guard fun _ _ => nofun) ?_
    exact (ok_bind _ (sensitive_ok fun _ => hi)).trans (push_begin_error hv h _)
  | popf hi =>
    refine run_error (hlock.guard fun _ _ => nofun) ?_
    exact (ok_bind _ (sensitive_ok fun _ => hi)).trans (error_bind _ (pop_begin_error hv h))
  | insb hready | insw hready =>
    obtain ⟨hports, hrep⟩ := hready
    exact runString_error (hlock.guard fun _ _ => nofun) hrep (insOnce_begin_error hv hports h)
  | outsb hready | outsw hready =>
    obtain ⟨hports, hrep⟩ := hready
    exact runString_error (hlock.guard fun _ _ => nofun) hrep (outsOnce_begin_error hv hports h)

/-- An access outside its segment raises #SS(0) or #GP(0) (R48), which leaves CR2. -/
theorem stopped_offsetExc (s : State) (r : SReg) :
    stopped s (.exc (offsetExc r)) = faults s (if r = .ss then 12 else 13) (some 0) := by
  by_cases hr : r = .ss
  · simp only [offsetExc, if_pos hr]; rfl
  · simp only [offsetExc, if_neg hr]; rfl

/-- Settles O50: what the access stops with, by `accessAddrs_past_end` and `accessAddrs_untranslated`, is what the instruction
stops with, by `exec_stops_of_reaches`. -/
theorem offsetPastSegmentEndFaults : Obligations.OffsetPastSegmentEndFaults := by
  refine ⟨fun s r off v n hv hoff => ⟨?_, ?_⟩, fun i s k r off n hv hlock hr => ⟨fun hoff => ?_, ?_⟩⟩
  · exact (memRead_eq ..).trans (error_bind _ (accessAddrs_past_end .read hv hoff))
  · exact (memWrite_eq ..).trans (error_bind _ (accessAddrs_past_end .write hv hoff))
  · rw [exec_stops_of_reaches hv hlock hr (accessAddrs_past_end k hv hoff), stopped_offsetExc]
  · intro j e hin hal hj hok he
    exact exec_stops_of_reaches hv hlock hr (accessAddrs_untranslated hv hin hal hj hok he)

end Sys2Proof.Proofs
end

section
/-! PROOFS. The encoder and the decoder: the round trip and the lengths (O6, O7, O8). What the ModRM byte of an operand and the
bytes after it are parsed as is said once, by `ParsesAs`; an opcode then adds its form and its group. -/

namespace Sys2Proof.Proofs

open Sys2Proof.Laws

/-! Numbers and bytes that give back what they were made from. -/

@[simp] theorem reg_ofNum_num (r : Reg) : Reg.ofNum r.num = r := by cases r <;> rfl

@[simp] theorem reg8_ofNum_num (r : Reg8) : Reg8.ofNum r.num = r := by cases r <;> rfl

@[simp] theorem base16_ofNum_num (b : Base16) : Base16.ofNum b.num = b := by cases b <;> rfl

@[simp] theorem modField_packByte (hi : BitVec 2) (mid lo : BitVec 3) : modField (packByte hi mid lo) = hi := by
  decide +revert

@[simp] theorem regField_packByte (hi : BitVec 2) (mid lo : BitVec 3) : regField (packByte hi mid lo) = mid := by
  decide +revert

@[simp] theorem rmField_packByte (hi : BitVec 2) (mid lo : BitVec 3) : rmField (packByte hi mid lo) = lo := by
  decide +revert

@[simp] theorem take16_bytes16 (w : Word) (rest : List Byte) : take16 (bytes16 w ++ rest) = some w := by
  simp only [bytes16, List.cons_append, take16, Option.some.injEq]
  apply BitVec.eq_of_toNat_eq
  simp only [append_toNat, extract_toNat]
  omega

@[simp] theorem take32_bytes32 (d : Dword) (rest : List Byte) : take32 (bytes32 d ++ rest) = some d := by
  simp only [bytes32, List.cons_append, take32, Option.some.injEq]
  apply BitVec.eq_of_toNat_eq
  simp only [append_toNat, extract_toNat]
  omega

@[simp] theorem bytes16_length (w : Word) : (bytes16 w).length = 2 := rfl

@[simp] theorem bytes32_length (d : Dword) : (bytes32 d).length = 4 := rfl

/-! Operands. -/

/-- The bytes `l` are a ModRM byte with this reg field and what it calls for, and whatever follows them, they are parsed as
the operand `x`. -/
def ParsesAs (a32 : Bool) (reg : BitVec 3) (l : List Byte) (x : Rm (BitVec 3)) : Prop :=
  ∃ m t, l = m :: t ∧ regField m = reg ∧ ∀ rest, parseRm a32 m (t ++ rest) = some (x, t.length)

theorem parsesAs_reg (a32 : Bool) (reg rm : BitVec 3) : ParsesAs a32 reg [packByte 3 reg rm] (.reg rm) :=
  ⟨_, [], rfl, by simp, fun rest => by simp [parseRm]⟩

theorem base16_num_eq_six (b : Base16) : b.num = 6#3 ↔ b = .bp := by cases b <;> decide

theorem parsesAs_mem16 (reg : BitVec 3) {m : Mem16} (h : m.wf = true) :
    ParsesAs false reg (encodeMem16 reg m) (.mem (.a16 m)) := by
  rcases m with d | ⟨b, _ | d | d⟩
  · exact ⟨_, _, rfl, by simp, fun rest => by simp [parseRm, parseMem, parseMem16]⟩
  · have hb : b.num ≠ 6#3 := fun e => by
      obtain rfl := (base16_num_eq_six b).1 e
      cases h
    exact ⟨_, _, rfl, by simp, fun rest => by simp [parseRm, parseMem, parseMem16, hb]⟩
  · exact ⟨_, _, rfl, by simp, fun rest => by simp [parseRm, parseMem, parseMem16]⟩
  · exact ⟨_, _, rfl, by simp, fun rest => by simp [parseRm, parseMem, parseMem16]⟩

theorem disp32_modNum_ne_three (d : Disp32) : d.modNum ≠ 3#2 := by cases d <;> simp [Disp32.modNum]

theorem disp32_modNum_eq_zero (d : Disp32) : d.modNum = 0#2 ↔ d = .none := by cases d <;> simp [Disp32.modNum]

@[simp] theorem parseDisp32_bytes (d : Disp32) (rest : List Byte) :
    parseDisp32 d.modNum (d.bytes ++ rest) = some (d, d.bytes.length) := by
  cases d with
  | none => rfl
  | d8 d => rfl
  | d32 d => simp [parseDisp32, Disp32.modNum, Disp32.bytes]

theorem reg_num_eq_four (r : Reg) : r.num = 4#3 ↔ r = .esp := by cases r <;> decide

theorem reg_num_eq_five (r : Reg) : r.num = 5#3 ↔ r = .ebp := by cases r <;> decide

/-- Base number 5 with mod 0 stands for disp32 alone; only EBP without a displacement would be that (R78). -/
theorem modNum_base_ne {b : Reg} {d : Disp32} (h : ¬ (d = .none ∧ b = .ebp)) : ¬ (d.modNum = 0#2 ∧ b.num = 5#3) := by
  rwa [disp32_modNum_eq_zero, reg_num_eq_five]

theorem parsesAs_mem32 (reg : BitVec 3) {m : Mem32} (h : m.wf = true) :
    ParsesAs true reg (encodeMem32 reg m) (.mem (.a32 m)) := by
  rcases m with d | ⟨b, d⟩ | ⟨sc, ix, b, d⟩ | ⟨sc, ix, d⟩
  · exact ⟨_, _, rfl, by simp, fun rest => by simp [parseRm, parseMem, parseMem32]⟩
  · have h4 : b.num ≠ 4#3 := fun e => by
      obtain rfl := (reg_num_eq_four b).1 e
      cases h
    have h5 := modNum_base_ne (b := b) (d := d) (by rintro ⟨rfl, rfl⟩; cases h)
    exact ⟨_, _, rfl, by simp, fun rest => by
      simp [parseRm, parseMem, parseMem32, disp32_modNum_ne_three, h4, h5]⟩
  · have h5 := modNum_base_ne (b := b) (d := d) (by rintro ⟨rfl, rfl⟩; cases h)
    exact ⟨_, _, rfl, by simp, fun rest => by
      simp [parseRm, parseMem, parseMem32, disp32_modNum_ne_three, h5, Nat.add_comm]⟩
  · exact ⟨_, _, rfl, by simp, fun rest => by simp [parseRm, parseMem, parseMem32]⟩

/-- The memory operand, if there is one, has an encoding in this address size. -/
def Encodable (a32 : Bool) : Option MemRef → Prop
  | none => True
  | some (.a16 m) => m.wf = true ∧ a32 = false
  | some (.a32 m) => m.wf = true ∧ a32 = true

theorem encodable_mem {i : Instr} {a32 : Bool} (hw : i.wf = true) (hf : i.fitsAddressSize a32 = true) :
    Encodable a32 i.mem? := by
  unfold Instr.wf at hw
  unfold Instr.fitsAddressSize at hf
  split at hf
  · next m hm =>
    rw [hm] at hw ⊢
    exact ⟨hw, by simpa using hf⟩
  · next m hm =>
    rw [hm] at hw ⊢
    exact ⟨hw, hf⟩
  · next hm =>
    rw [hm]
    trivial

theorem parsesAs_mem {a32 : Bool} (reg : BitVec 3) {m : MemRef} (h : Encodable a32 (some m)) :
    ParsesAs a32 reg (encodeMem reg m) (.mem m) := by
  cases m with
  | a16 m =>
    obtain ⟨hw, rfl⟩ := h
    exact parsesAs_mem16 reg hw
  | a32 m =>
    obtain ⟨hw, rfl⟩ := h
    exact parsesAs_mem32 reg hw

theorem parsesAs_rm8 {a32 : Bool} (reg : BitVec 3) {y : Rm Reg8} (h : Encodable a32 y.mem?) :
    ∃ x, ParsesAs a32 reg (encodeRm8 reg y) x ∧ x.as8 = y := by
  cases y with
  | reg r => exact ⟨_, parsesAs_reg a32 reg r.num, by simp [Rm.as8]⟩
  | mem m => exact ⟨_, parsesAs_mem reg h, rfl⟩

theorem parsesAs_rmW {a32 : Bool} (reg : BitVec 3) {y : Rm Reg} (h : Encodable a32 y.mem?) :
    ∃ x, ParsesAs a32 reg (encodeRmW reg y) x ∧ x.asW = y := by
  cases y with
  | reg r => exact ⟨_, parsesAs_reg a32 reg r.num, by simp [Rm.asW]⟩
  | mem m => exact ⟨_, parsesAs_mem reg h, rfl⟩

/-! What follows an opcode. -/

section Forms

variable {a32 : Bool} {n : Nat} {l rest : List Byte} {reg : BitVec 3} {x : Rm (BitVec 3)} {i : Instr}
  {g : BitVec 3 → Rm (BitVec 3) → Group}

theorem finishForm_done (hl : ParsesAs a32 reg l x) (hg : g reg x = .done i) :
    finishForm a32 n (l ++ rest) (.modRm g) = .ok i (n + l.length) := by
  obtain ⟨m, t, rfl, rfl, hp⟩ := hl
  simp only [List.cons_append, finishForm, hp, hg, List.length_cons, Decoded.ok.injEq, true_and]
  omega

theorem finishForm_doneImm {f : Byte → Instr} (hl : ParsesAs a32 reg l x) (hg : g reg x = .doneImm f) (c : Byte) :
    finishForm a32 n (l ++ c :: rest) (.modRm g) = .ok (f c) (n + l.length + 1) := by
  obtain ⟨m, t, rfl, rfl, hp⟩ := hl
  simp only [List.cons_append, finishForm, hp, hg, List.drop_left, List.length_cons, Decoded.ok.injEq, true_and]
  omega

theorem finishForm_modReg (f : BitVec 3 → BitVec 3 → Instr) (reg rm : BitVec 3) :
    finishForm a32 n (packByte 3 reg rm :: rest) (.modReg f) = .ok (f reg rm) (n + 1) := by
  simp [finishForm, parseRm]

theorem decode_form1 {b : Byte} (r : List Byte) (h : b ≠ 0x0F) :
    decode a32 (b :: r) = finishForm a32 1 r (form1 b) := by
  simp only [decode, if_neg h]

theorem decode_form2 (b : Byte) (r : List Byte) : decode a32 (0x0F :: b :: r) = finishForm a32 2 r (form2 b) := rfl

/-- One opcode byte and its operand. -/
theorem decode_done1 {b : Byte} (h : b ≠ 0x0F) (hb : form1 b = .modRm g) (hl : ParsesAs a32 reg l x)
    (hg : g reg x = .done i) : decode a32 (b :: l ++ rest) = .ok i (b :: l).length := by
  rw [List.cons_append, decode_form1 _ h, hb, finishForm_done hl hg, List.length_cons, Nat.add_comm]

/-- One opcode byte, its operand, and an immediate byte. -/
theorem decode_doneImm1 {b c : Byte} {f : Byte → Instr} (h : b ≠ 0x0F) (hb : form1 b = .modRm g)
    (hl : ParsesAs a32 reg l x) (hg : g reg x = .doneImm f) :
    decode a32 (b :: l ++ [c] ++ rest) = .ok (f c) (b :: l ++ [c]).length := by
  rw [List.append_assoc, List.cons_append, decode_form1 _ h, hb, List.singleton_append, finishForm_doneImm hl hg,
    List.length_append, List.length_cons, List.length_singleton, Nat.add_comm 1]

/-- Two opcode bytes and the operand. -/
theorem decode_done2 {b : Byte} (hb : form2 b = .modRm g) (hl : ParsesAs a32 reg l x) (hg : g reg x = .done i) :
    decode a32 (0x0F :: b :: l ++ rest) = .ok i (0x0F :: b :: l).length := by
  rw [List.cons_append, List.cons_append, decode_form2, hb, finishForm_done hl hg, List.length_cons, List.length_cons,
    Nat.add_comm]

/-- Two opcode bytes and two register numbers. -/
theorem decode_modReg2 {b : Byte} {f : BitVec 3 → BitVec 3 → Instr} (hb : form2 b = .modReg f) (reg rm : BitVec 3) :
    decode a32 ([0x0F, b, packByte 3 reg rm] ++ rest) = .ok (f reg rm) 3 := by
  show decode a32 (0x0F :: b :: packByte 3 reg rm :: rest) = _
  rw [decode_form2, hb, finishForm_modReg]

end Forms

/-- Settles O6: each row of the opcode table by the form of its opcode and, where there is an operand, by what its bytes are
parsed as. -/
theorem decodeEncodeRoundTrip : Obligations.DecodeEncodeRoundTrip := by
  intro i a32 rest hw hf
  have he := encodable_mem hw hf
  cases i with
  | cli | sti | pushf | popf | iret | inAlDx | inAxDx | outDxAl | outDxAx | insb | insw | outsb | outsw | hlt
  | clts | invd | wbinvd | intN | inAlImm | inAxImm | outImmAl | outImmAx
  | opSizePfx | addrSizePfx | esPfx | csPfx | ssPfx | dsPfx | fsPfx | gsPfx | lockPfx | repnePfx | repPfx => rfl
  | push r => cases r <;> rfl
  | lidt m | lgdt m | invlpg m => exact decode_done2 rfl (parsesAs_mem _ he) rfl
  | lmsw y =>
    obtain ⟨x, hx, rfl⟩ := parsesAs_rmW 6 he
    exact decode_done2 rfl hx rfl
  | movFromCr n r | movToCr n r | movFromDr n r | movToDr n r | movFromTr n r | movToTr n r =>
    refine (decode_modReg2 rfl n r.num).trans ?_
    rw [reg_ofNum_num]
    rfl
  | movRRm r y | movRmR y r | xchg y r =>
    obtain ⟨x, hx, rfl⟩ := parsesAs_rmW r.num he
    refine decode_done1 (by decide) rfl hx ?_
    rw [reg_ofNum_num]
  | movSregRm n y | movRmSreg y n =>
    obtain ⟨x, hx, rfl⟩ := parsesAs_rmW n he
    exact decode_done1 (by decide) rfl hx rfl
  | div8 y | idiv8 y
  | rol8One y | rol8Cl y | ror8One y | ror8Cl y | rcl8One y | rcl8Cl y | rcr8One y | rcr8Cl y
  | shl8One y | shl8Cl y | shr8One y | shr8Cl y | sar8One y | sar8Cl y =>
    obtain ⟨x, hx, rfl⟩ := parsesAs_rm8 _ he
    exact decode_done1 (by decide) rfl hx rfl
  | divW y | idivW y
  | rolWOne y | rolWCl y | rorWOne y | rorWCl y | rclWOne y | rclWCl y | rcrWOne y | rcrWCl y
  | shlWOne y | shlWCl y | shrWOne y | shrWCl y | sarWOne y | sarWCl y =>
    obtain ⟨x, hx, rfl⟩ := parsesAs_rmW _ he
    exact decode_done1 (by decide) rfl hx rfl
  | rol8Imm y | ror8Imm y | rcl8Imm y | rcr8Imm y | shl8Imm y | shr8Imm y | sar8Imm y =>
    obtain ⟨x, hx, rfl⟩ := parsesAs_rm8 _ he
    exact decode_doneImm1 (by decide) rfl hx rfl
  | rolWImm y | rorWImm y | rclWImm y | rcrWImm y | shlWImm y | shrWImm y | sarWImm y =>
    obtain ⟨x, hx, rfl⟩ := parsesAs_rmW _ he
    exact decode_doneImm1 (by decide) rfl hx rfl

/-- Settles O7: each byte sequence by evaluation of the decoder. -/
theorem decodeSpecWords : Obligations.DecodeSpecWords :=
  ⟨rfl, rfl, rfl, rfl, rfl, rfl, rfl, rfl, rfl, rfl⟩

/-- Settles O8: the opcode bytes, the operand of 1 to 6 bytes, and an immediate byte. -/
theorem encodedLengthBounds : Obligations.EncodedLengthBounds := by
  intro i
  cases i with
  | cli | sti | pushf | popf | iret | inAlDx | inAxDx | outDxAl | outDxAx | insb | insw | outsb | outsw | hlt
  | clts | invd | wbinvd | intN | inAlImm | inAxImm | outImmAl | outImmAx | push
  | movFromCr | movToCr | movFromDr | movToDr | movFromTr | movToTr
  | opSizePfx | addrSizePfx | esPfx | csPfx | ssPfx | dsPfx | fsPfx | gsPfx | lockPfx | repnePfx | repPfx =>
    exact ⟨Nat.le_of_ble_eq_true rfl, Nat.le_of_ble_eq_true rfl⟩
  | lidt m | lgdt m | invlpg m => exact tail_two _ _ (encodeMem_length _ m)
  | lmsw y => exact tail_two _ _ (encodeRmW_length _ y)
  | movRRm _ y | movSregRm _ y | movRmR y | xchg y | movRmSreg y | divW y | idivW y
  | rolWOne y | rolWCl y | rorWOne y | rorWCl y | rclWOne y | rclWCl y | rcrWOne y | rcrWCl y
  | shlWOne y | shlWCl y | shrWOne y | shrWCl y | sarWOne y | sarWCl y => exact tail_one _ (encodeRmW_length _ y)
  | div8 y | idiv8 y
  | rol8One y | rol8Cl y | ror8One y | ror8Cl y | rcl8One y | rcl8Cl y | rcr8One y | rcr8Cl y
  | shl8One y | shl8Cl y | shr8One y | shr8Cl y | sar8One y | sar8Cl y => exact tail_one _ (encodeRm8_length _ y)
  | rol8Imm y | ror8Imm y | rcl8Imm y | rcr8Imm y | shl8Imm y | shr8Imm y | sar8Imm y =>
    exact tail_imm _ _ (encodeRm8_length _ y)
  | rolWImm y | rorWImm y | rclWImm y | rcrWImm y | shlWImm y | shrWImm y | sarWImm y =>
    exact tail_imm _ _ (encodeRmW_length _ y)

end Sys2Proof.Proofs
end

section
/-! PROOFS. A step at a quiet boundary: the bytes it fetches, the instruction it runs, and what stops it (O9, O10, O11). -/

namespace Sys2Proof.Proofs

open Sys2Proof.Machine Sys2Proof.Safety Sys2Proof.Laws

/-! The boundary, and the step that follows it. -/

/-- A quiet boundary changes nothing: the next instruction begins in the same state. -/
theorem boundary_of_quiet {s : State} (h : quiet s = true) : boundary s = .go s := by
  by_cases hl : s.ilen = 0
  · simp only [quiet, hl, bne_self_eq_false, Bool.false_or, Bool.and_eq_true, Bool.or_eq_true, Bool.not_eq_true',
      List.isEmpty_iff] at h
    obtain ⟨⟨⟨⟨hext, htrap⟩, hnmi⟩, hirq⟩, hhalt⟩ := h
    rw [boundary_of_takeEvent_none hl (absorb_nil hext) (takeEvent_none htrap hnmi hirq), hhalt]
    rfl
  · rw [boundary, if_neg hl]

theorem step_of_quiet_execute {s v : State} {i : Instr} (h : quiet s = true) (hn : nextInstruction s = .execute i v) :
    step s = exec i v := by
  simp only [step, boundary_of_quiet h, hn]

theorem step_of_quiet_outcome {s : State} {o : Out} (h : quiet s = true) (hn : nextInstruction s = .outcome o) :
    step s = o := by
  simp only [step, boundary_of_quiet h, hn]

theorem nextInstruction_fetch {s : State} (h : s.iterating = none) : nextInstruction s = fetchDecode s := by
  simp only [nextInstruction, h]

/-- The step at a quiet boundary, when the bytes that can be fetched decode to an instruction. -/
theorem step_of_decode_ok {s : State} {i : Instr} {n : Nat} (h : quiet s = true) (hi : s.iterating = none)
    (hd : decode s.addr32 s.window.1 = .ok i n) : step s = exec i { s with ilen := s.ilen + n } :=
  step_of_quiet_execute h (by simp only [nextInstruction_fetch hi, fetchDecode, hd])

/-- Settles O9: a quiet boundary goes on to what is decoded, or to the iteration that stands over. -/
theorem stepRunsDecoded : Obligations.StepRunsDecoded := by
  refine ⟨fun s i n => step_of_decode_ok, fun s r h hr => ?_⟩
  have hn : nextInstruction s = .execute r.op.instr { s with ilen := r.ilen, pfx := r.pfx, iterating := none } := by
    simp only [nextInstruction, hr]
  rw [step_of_quiet_execute h hn]
  cases r.op <;> rfl

/-! The bytes that can be fetched. -/

theorem fetchByte_ok_lt {s : State} {k : Nat} {b : Byte} (h : fetchByte s k = .ok b) : k < maxLength := by
  by_contra hk
  rw [fetchByte, if_pos (by omega)] at h
  cases h

theorem fetchByte_past_max {s : State} {k : Nat} (h : maxLength ≤ k) : fetchByte s k = raising excGP0 := if_pos h

/-- What can be fetched from byte `k` on, up to the 15th byte, is a byte and what can be fetched from the next on. -/
theorem fetchWindow_ok {s : State} {k : Nat} {b : Byte} (h : fetchByte s k = .ok b) :
    fetchWindow s (maxLength - k) k =
      (b :: (fetchWindow s (maxLength - (k + 1)) (k + 1)).1, (fetchWindow s (maxLength - (k + 1)) (k + 1)).2) := by
  have hk := fetchByte_ok_lt h
  rw [show maxLength - k = maxLength - (k + 1) + 1 by omega, fetchWindow, h]

theorem fetchWindow_error {s : State} {k : Nat} {e : Stop} (h : fetchByte s k = .error e) :
    fetchWindow s (maxLength - k) k = ([], e) := by
  by_cases hk : maxLength ≤ k
  · rw [fetchByte_past_max hk] at h
    cases h
    rw [show maxLength - k = 0 by omega]
    rfl
  · rw [show maxLength - k = maxLength - (k + 1) + 1 by omega, fetchWindow, h]

/-- What can be fetched begins with the bytes that stand there. -/
theorem fetchWindow_of_codeAt {s : State} {k : Nat} {bs : List Byte} (h : CodeAt s k bs) :
    fetchWindow s (maxLength - k) k =
      (bs ++ (fetchWindow s (maxLength - (k + bs.length)) (k + bs.length)).1,
        (fetchWindow s (maxLength - (k + bs.length)) (k + bs.length)).2) := by
  induction bs generalizing k with
  | nil => rfl
  | cons b bs ih =>
    obtain ⟨hb, hrest⟩ := h
    rw [fetchWindow_ok hb, ih hrest, List.length_cons, List.cons_append, show k + (bs.length + 1) = k + 1 + bs.length by omega]

/-- Settles O10: what can be fetched begins with the encoding, which decodes to the instruction whatever follows it (O6). -/
theorem stepExecutesEncoded : Obligations.StepExecutesEncoded := by
  intro s i hq hi hw hf hc
  refine step_of_decode_ok hq hi ?_
  rw [State.window, fetchWindow_of_codeAt hc]
  exact decodeEncodeRoundTrip i s.addr32 _ hw hf

/-! What stops a fetch. -/

/-- The bytes so far do not make an instruction, so what stops the fetch of the next one is what the step ends with. -/
theorem step_of_fetch_error {s : State} {bs : List Byte} {e : Stop} (h : quiet s = true) (hi : s.iterating = none)
    (hc : CodeAt s s.ilen bs) (hd : decode s.addr32 bs = .more) (he : fetchByte s (s.ilen + bs.length) = .error e) :
    step s = stopped s e := by
  have hwin : s.window = (bs, e) := by
    rw [State.window, fetchWindow_of_codeAt hc, fetchWindow_error he, List.append_nil]
  exact step_of_quiet_outcome h (by simp only [nextInstruction_fetch hi, fetchDecode, hwin, hd])

theorem stopped_gp0 (s : State) : stopped s (.exc excGP0) = faults s 13 (some 0) := rfl

theorem fetchByte_past_segment {s : State} {k : Nat} (hk : k < 15) (hv : s.vm = true)
    (ho : 0xFFFF < (s.eip + BitVec.ofNat 32 k).toNat) : fetchByte s k = .error (.exc excGP0) := by
  rw [fetchByte, if_neg (by simp only [maxLength]; omega)]
  refine error_bind _ (checkOff_error ?_)
  rw [inSegment_v86 hv]
  exact decide_eq_false (by omega)

/-- In V86 mode a byte inside the segment is translated with user privilege (R51), and refused if it was written. -/
theorem fetchByte_inside {s : State} {k : Nat} (hk : k < 15) (hv : s.vm = true)
    (ho : (s.eip + BitVec.ofNat 32 k).toNat ≤ 0xFFFF) :
    fetchByte s k =
      linToPhys s ((s.seg .cs).base + (s.eip + BitVec.ofNat 32 k)) .fetch .user >>= fun pa =>
        if s.written.contains pa.toNat then refusing .staleFetch else .ok (s.mem.read pa.toNat) := by
  have hoff : checkOff s .cs (s.eip + BitVec.ofNat 32 k) 1 = .ok () :=
    checkOff_eq_ok.2 ((inSegment_v86 hv ..).trans (decide_eq_true (by omega)))
  have hpriv : s.priv = .user := if_pos (.inl hv)
  rw [fetchByte, if_neg (by simp only [maxLength]; omega), ok_bind _ hoff, hpriv]
  rfl

/-- Settles O11: each limit stops the fetch of the next byte. -/
theorem fetchLimitFaults : Obligations.FetchLimitFaults := by
  intro s bs hq hi hc hd k off
  have hstop {e : Stop} (he : fetchByte s k = .error e) : step s = stopped s e := step_of_fetch_error hq hi hc hd he
  refine ⟨fun hk => ?_, fun hk hv ho => ?_, fun hk hv ho => ⟨fun e he => ?_, fun pa hpa hw => ?_⟩⟩
  · rw [hstop (fetchByte_past_max hk), stopped_gp0]
  · rw [hstop (fetchByte_past_segment hk hv ho), stopped_gp0]
  · exact hstop ((fetchByte_inside hk hv ho).trans (error_bind _ he))
  · refine hstop (e := .refuse .staleFetch) ?_
    rw [fetchByte_inside hk hv ho, ok_bind _ hpa, if_pos (by simpa using hw)]
    rfl

end Sys2Proof.Proofs
end

section
/-! PROOFS. Every step keeps the bound of 15 bytes (O5): decoding takes no more bytes than can be fetched, and an instruction
either begins the next one afresh or, as an iteration or one of the bytes of R71, keeps its count. -/

namespace Sys2Proof.Proofs

open Sys2Proof.Machine Sys2Proof.Safety Sys2Proof.Laws

/-! Decoding takes no more bytes than it is given. -/

theorem take16_some_length {r : List Byte} {w : Word} (h : take16 r = some w) : 2 ≤ r.length := by
  match r, h with
  | _ :: _ :: _, _ => simp

theorem take32_some_length {r : List Byte} {d : Dword} (h : take32 r = some d) : 4 ≤ r.length := by
  match r, h with
  | _ :: _ :: _ :: _ :: _, _ => simp

theorem parseMem16_length {md : BitVec 2} {rm : BitVec 3} {r : List Byte} {p : Mem16 × Nat}
    (h : parseMem16 md rm r = some p) : p.2 ≤ r.length := by
  unfold parseMem16 at h
  split at h
  · split at h
    · obtain ⟨d, hd, rfl⟩ := Option.map_eq_some_iff.1 h
      exact take16_some_length hd
    · cases h
      exact Nat.zero_le _
  · split at h
    · split at h
      · cases h
      · cases h
        simp
    · obtain ⟨d, hd, rfl⟩ := Option.map_eq_some_iff.1 h
      exact take16_some_length hd

theorem parseDisp32_length {md : BitVec 2} {r : List Byte} {p : Disp32 × Nat} (h : parseDisp32 md r = some p) :
    p.2 ≤ r.length := by
  unfold parseDisp32 at h
  split at h
  · cases h
    exact Nat.zero_le _
  · split at h
    · split at h
      · cases h
      · cases h
        simp
    · obtain ⟨d, hd, rfl⟩ := Option.map_eq_some_iff.1 h
      exact take32_some_length hd

theorem parseMem32_length {md : BitVec 2} {rm : BitVec 3} {r : List Byte} {p : Mem32 × Nat}
    (h : parseMem32 md rm r = some p) : p.2 ≤ r.length := by
  unfold parseMem32 at h
  split at h
  · split at h
    · cases h
    · split at h
      · obtain ⟨d, hd, rfl⟩ := Option.map_eq_some_iff.1 h
        exact Nat.succ_le_succ (take32_some_length hd)
      · obtain ⟨d, hd, rfl⟩ := Option.map_eq_some_iff.1 h
        have hlen := parseDisp32_length hd
        simp only [List.length_cons]
        omega
  · split at h
    · obtain ⟨d, hd, rfl⟩ := Option.map_eq_some_iff.1 h
      exact take32_some_length hd
    · obtain ⟨d, hd, rfl⟩ := Option.map_eq_some_iff.1 h
      exact parseDisp32_length hd

theorem parseRm_length {a32 : Bool} {m : Byte} {r : List Byte} {p : Rm (BitVec 3) × Nat}
    (h : parseRm a32 m r = some p) : p.2 ≤ r.length := by
  unfold parseRm at h
  split at h
  · cases h
    exact Nat.zero_le _
  · obtain ⟨x, hx, rfl⟩ := Option.map_eq_some_iff.1 h
    unfold parseMem at hx
    split at hx
    · obtain ⟨y, hy, rfl⟩ := Option.map_eq_some_iff.1 hx
      exact parseMem32_length hy
    · obtain ⟨y, hy, rfl⟩ := Option.map_eq_some_iff.1 hx
      exact parseMem16_length hy

theorem finishForm_ok_length {a32 : Bool} {n len : Nat} {r : List Byte} {f : Form} {i : Instr}
    (h : finishForm a32 n r f = .ok i len) : len ≤ n + r.length := by
  cases f with
  | bare j =>
    cases h
    omega
  | imm f =>
    cases r with
    | nil => cases h
    | cons b r =>
      cases h
      simp
  | noRule | escOrWait => cases h
  | modReg f =>
    cases r with
    | nil => cases h
    | cons m r =>
      simp only [finishForm] at h
      split at h
      · cases h
      · next hp =>
        have hlen := parseRm_length hp
        cases h
        simp only [List.length_cons]
        omega
  | modRm g =>
    cases r with
    | nil => cases h
    | cons m r =>
      simp only [finishForm] at h
      split at h
      · cases h
      · next k hp =>
        have hlen := parseRm_length hp
        split at h
        · cases h
          simp only [List.length_cons]
          omega
        · split at h
          · cases h
          · next hdrop =>
            have hk := congrArg List.length hdrop
            cases h
            simp only [List.length_drop, List.length_cons] at hk ⊢
            omega
        all_goals cases h

theorem decode_ok_length {a32 : Bool} {bs : List Byte} {i : Instr} {n : Nat} (h : decode a32 bs = .ok i n) :
    n ≤ bs.length := by
  unfold decode at h
  split at h
  · cases h
  · split at h
    · split at h
      · cases h
      · have hlen := finishForm_ok_length h
        simp only [List.length_cons]
        omega
    · have hlen := finishForm_ok_length h
      simp only [List.length_cons]
      omega

theorem fetchWindow_length (s : State) (n k : Nat) : (fetchWindow s n k).1.length ≤ n := by
  induction n generalizing k with
  | zero => exact Nat.le_refl 0
  | succ n ih =>
    unfold fetchWindow
    split
    · exact Nat.zero_le _
    · exact Nat.succ_le_succ (ih _)

/-! What an instruction, an event and a step leave of the count. -/

theorem lengthOk_iff {s : State} : lengthOk s = true ↔ s.ilen ≤ 15 ∧ ∀ r, s.iterating = some r → r.ilen ≤ 15 := by
  unfold lengthOk
  cases s.iterating <;> simp

/-- Nothing is fetched yet of the next instruction, and no iteration stands over. -/
def Fresh (s : State) : Prop := s.ilen = 0 ∧ s.iterating = none

theorem Fresh.lengthOk {s : State} (h : Fresh s) : lengthOk s = true := by
  obtain ⟨hl, hi⟩ := h
  exact lengthOk_iff.2 ⟨by omega, by simp [hi]⟩

theorem deliver_fresh {s t : State} {ev : Event} (h : deliver s ev = .next t) : Fresh t := by
  rcases deliver_next h with ⟨-, ev', g, ⟨c, hh⟩ | ht⟩ | ⟨-, ip, cs, u, -, rfl⟩
  · obtain ⟨u, ss0, stack, esp0, esp, -, -, rfl⟩ := enterHandler_ok hh
    exact ⟨rfl, rfl⟩
  · obtain ⟨u, hu, rfl⟩ := enterTask_ok ht
    obtain ⟨⟨regs, segs, eip, fl, cpl, cr3, ldtr, tr, draws, mem, rfl⟩, -, -⟩ := taskSwitch_ok hu
    exact ⟨rfl, rfl⟩
  · exact ⟨rfl, rfl⟩

theorem raise_fresh {s t : State} {e : Exc} (h : raise s e = .next t) : Fresh t := by
  obtain ⟨cr2, ev, hd⟩ := raise_next h
  exact deliver_fresh hd

theorem stopped_fresh {s t : State} {e : Stop} (h : stopped s e = .next t) : Fresh t := by
  cases e with
  | exc e => exact raise_fresh h
  | refuse r => cases h

theorem retire_fresh (s t : State) : Fresh (retire s t) := ⟨rfl, rfl⟩

theorem run_fresh {s t : State} {l : Bool} {body : State → M State} (h : run s l body = .next t) : Fresh t := by
  rcases run_next h with ⟨u, -, rfl⟩ | ⟨e, he⟩
  · exact retire_fresh s u
  · exact raise_fresh he

theorem runJump_fresh {s t : State} {body : State → M State} (h : runJump s body = .next t) : Fresh t := by
  rcases runJump_next h with ⟨u, -, rfl⟩ | ⟨e, he⟩
  · exact ⟨rfl, rfl⟩
  · exact raise_fresh he

theorem softInterrupt_fresh {s t : State} {n : Byte} (h : softInterrupt s n = .next t) : Fresh t := by
  unfold softInterrupt at h
  dsimp only at h
  split at h
  · split at h
    · exact stopped_fresh h
    · split at h
      · exact raise_fresh h
      · exact deliver_fresh h
  · exact deliver_fresh h

theorem execIntN_fresh {s t : State} {n : Byte} (h : execIntN n s = .next t) : Fresh t := by
  unfold execIntN at h
  split at h
  · exact softInterrupt_fresh h
  · exact stopped_fresh h

/-- A repeated instruction between two iterations holds the length that it was decoded with (R133). -/
theorem betweenIterations_lengthOk {s : State} (t : State) (op : StringIo) (hs : lengthOk s = true) :
    lengthOk (betweenIterations s t op) = true := by
  obtain ⟨hl, -⟩ := lengthOk_iff.1 hs
  refine lengthOk_iff.2 ⟨Nat.zero_le _, fun r hr => ?_⟩
  cases hr
  exact hl

theorem runString_lengthOk {s t : State} {op : StringIo} {n : Nat} {once : State → Nat → M State}
    (hs : lengthOk s = true) (h : runString op s n once = .next t) : lengthOk t = true := by
  rcases finish_next h with hx | ⟨e, he⟩
  case inr => exact (stopped_fresh he).lengthOk
  obtain ⟨-, -, hx⟩ := bind_eq_ok.1 hx
  split at hx
  · obtain ⟨u, -, hx⟩ := bind_eq_ok.1 hx
    cases hx
    exact (retire_fresh ..).lengthOk
  · split at hx <;> obtain ⟨u, -, hx⟩ := bind_eq_ok.1 hx
    · cases hx
      exact (retire_fresh ..).lengthOk
    · dsimp only at hx
      split at hx <;> cases hx
      · exact (retire_fresh ..).lengthOk
      · exact betweenIterations_lengthOk _ op hs

theorem exec_lengthOk {i : Instr} {s t : State} (hs : lengthOk s = true) (h : exec i s = .next t) :
    lengthOk t = true := by
  unfold exec at h
  cases i with
  | intN => exact (execIntN_fresh h).lengthOk
  | iret => exact (runJump_fresh h).lengthOk
  | insb | insw | outsb | outsw => exact runString_lengthOk hs h
  | opSizePfx | addrSizePfx | esPfx | csPfx | ssPfx | dsPfx | fsPfx | gsPfx | lockPfx | repnePfx | repPfx =>
    cases h
    exact hs
  | _ => exact (run_fresh h).lengthOk

theorem escOutcome_fresh {s t : State} (h : escOutcome s = .next t) : Fresh t := by
  unfold escOutcome at h
  split at h
  · exact deliver_fresh h
  · split at h
    · exact stopped_fresh h
    · cases h

theorem unsupportedOutcome_fresh {s t : State} (h : unsupportedOutcome s = .next t) : Fresh t := by
  unfold unsupportedOutcome at h
  split at h
  · cases h
  · split at h
    · exact stopped_fresh h
    · exact raise_fresh h

theorem noRuleOutcome_fresh {s t : State} {l : Bool} (h : noRuleOutcome s l = .next t) : Fresh t := by
  unfold noRuleOutcome at h
  split at h
  · exact stopped_fresh h
  · cases h

theorem fetchDecode_outcome_fresh {s t : State} (h : fetchDecode s = .outcome (.next t)) : Fresh t := by
  unfold fetchDecode at h
  split at h <;> simp only [Fetched.outcome.injEq, reduceCtorEq] at h
  · exact stopped_fresh h
  · exact unsupportedOutcome_fresh h
  · exact noRuleOutcome_fresh h
  · exact escOutcome_fresh h

/-- The bytes counted with a decoded instruction are among those that can be fetched, at most 15 in all (R70). -/
theorem fetchDecode_execute_lengthOk {i : Instr} {s v : State} (hs : lengthOk s = true)
    (h : fetchDecode s = .execute i v) : lengthOk v = true := by
  obtain ⟨hl, hi⟩ := lengthOk_iff.1 hs
  unfold fetchDecode at h
  split at h <;> cases h
  next n hd =>
  have hn : n ≤ 15 - s.ilen := (decode_ok_length hd).trans (fetchWindow_length s _ _)
  exact lengthOk_iff.2 ⟨show s.ilen + n ≤ 15 by omega, hi⟩

theorem nextInstruction_execute_lengthOk {i : Instr} {s v : State} (hs : lengthOk s = true)
    (h : nextInstruction s = .execute i v) : lengthOk v = true := by
  rcases nextInstruction_cases s with ⟨-, e⟩ | ⟨r, hr, e⟩
  · exact fetchDecode_execute_lengthOk hs (e.symm.trans h)
  · cases e.symm.trans h
    exact lengthOk_iff.2 ⟨(lengthOk_iff.1 hs).2 r hr, nofun⟩

theorem nextInstruction_outcome_fresh {s t : State} (h : nextInstruction s = .outcome (.next t)) : Fresh t := by
  rcases nextInstruction_cases s with ⟨-, e⟩ | ⟨r, -, e⟩
  · exact fetchDecode_outcome_fresh (e.symm.trans h)
  · cases e.symm.trans h

theorem absorb_lengthOk {s t : State} (hs : lengthOk s = true) (h : absorb s = .ok t) : lengthOk t = true := by
  obtain ⟨⟨mem, irqs, np, fp, draws, evs, rfl⟩, -⟩ := absorb_ok h
  exact hs

theorem takeEvent_fresh {s t : State} (h : takeEvent s = some (.next t)) : Fresh t := by
  obtain ⟨u, ev, ho, -⟩ := takeEvent_some h
  exact deliver_fresh ho.symm

theorem boundary_go_lengthOk {s t : State} (hs : lengthOk s = true) (h : boundary s = .go t) : lengthOk t = true := by
  unfold boundary at h
  split at h
  · split at h
    · cases h
    · next hu =>
      split at h
      · cases h
      · split at h <;> cases h
        exact absorb_lengthOk hs hu
  · cases h
    exact hs

theorem boundary_outcome_lengthOk {s t : State} (hs : lengthOk s = true) (h : boundary s = .outcome (.next t)) :
    lengthOk t = true := by
  unfold boundary at h
  split at h
  · split at h
    · cases h
    · next hu =>
      split at h
      · next ho =>
        cases h
        exact (takeEvent_fresh ho).lengthOk
      · split at h <;> cases h
        exact absorb_lengthOk hs hu
  · cases h

/-- Settles O5: the bound along the parts of a step. -/
theorem stepKeepsLengthBound : Obligations.StepKeepsLengthBound := by
  intro s t hs h
  rcases step_next h with ⟨u, hb, rfl⟩ | ⟨u, hb, ⟨o, ho, rfl⟩ | ⟨i, v, hv, he⟩⟩
  · exact boundary_outcome_lengthOk hs hb
  · exact (nextInstruction_outcome_fresh ho).lengthOk
  · exact exec_lengthOk (nextInstruction_execute_lengthOk (boundary_go_lengthOk hs hb) hv) he

end Sys2Proof.Proofs
end

section
/-! PROOFS. The opcodes outside the opcode table (O12): what the decoder makes of them, and what the step then ends with. That the
decoder's reading of "lockable" is R190's list is shown opcode by opcode, over `FormLockable`. -/

namespace Sys2Proof.Proofs

open Sys2Proof.Machine Sys2Proof.Safety Sys2Proof.Laws

/-! Opcodes that R81 and R86 name. -/

theorem finishForm_unsupported {a32 : Bool} {n : Nat} {m : Byte} {r : List Byte} {g : BitVec 3 → Rm (BitVec 3) → Group}
    (h : (parseRm a32 m r).isSome = true) (hg : ∀ x, g (regField m) x = .unsupported) :
    finishForm a32 n (m :: r) (.modRm g) = .unsupported := by
  obtain ⟨⟨x, k⟩, hp⟩ := Option.isSome_iff_exists.1 h
  simp only [finishForm, hp, hg]

theorem form1_esc {b : Byte} (hlo : 0xD8 ≤ b.toNat) (hhi : b.toNat ≤ 0xDF) :
    form1 b = .modRm fun _ _ => .escOrWait := by
  obtain ⟨n, hn⟩ : ∃ n, n = b.toNat := ⟨_, rfl⟩
  obtain rfl : b = BitVec.ofNat 8 n := by rw [hn, BitVec.ofNat_toNat, BitVec.setWidth_eq]
  rw [← hn] at hlo hhi
  interval_cases n <;> rfl

theorem decode_esc {a32 : Bool} {b m : Byte} {r : List Byte} (h : (parseRm a32 m r).isSome = true)
    (hlo : 0xD8 ≤ b.toNat) (hhi : b.toNat ≤ 0xDF) : decode a32 (b :: m :: r) = .escOrWait := by
  obtain ⟨⟨x, k⟩, hp⟩ := Option.isSome_iff_exists.1 h
  rw [decode_form1 _ (by rintro rfl; simp at hlo), form1_esc hlo hhi]
  simp only [finishForm, hp]

theorem group0F00_low {reg : BitVec 3} (h : reg.toNat ≤ 5) (x : Rm (BitVec 3)) : group0F00 reg x = .unsupported := by
  refine if_neg ?_
  rintro (rfl | rfl) <;> simp at h

/-! "Lockable" by the opcode and the reg field of its ModRM byte. -/

/-- A group without a rule calls its opcode lockable where `p` does. -/
def GroupLockable (p : Bool) : Group → Prop
  | .noRule l => l = p
  | _ => True

/-- An opcode without a rule is called lockable where its operand is memory and `p` allows its reg field; one without a ModRM byte
is not lockable. -/
def FormLockable (p : BitVec 3 → Bool) : Form → Prop
  | .modRm g => ∀ reg x, GroupLockable (x.isMem && p reg) (g reg x)
  | .noRule => ∀ reg, p reg = false
  | _ => True

/-- R190's list for the opcodes of one byte. -/
def lockable1 (b : Byte) (reg : BitVec 3) : Bool :=
  b ∈ [0x00, 0x01, 0x08, 0x09, 0x10, 0x11, 0x18, 0x19, 0x20, 0x21, 0x28, 0x29, 0x30, 0x31, 0x86] ||
    (b ∈ [0x80, 0x81, 0x83] && decide (reg ≠ 7)) || (b ∈ [0xFE, 0xFF] && decide (reg ∈ [0, 1])) ||
    (b ∈ [0xF6, 0xF7] && decide (reg ∈ [2, 3]))

/-- R190's list for the opcodes after the byte 0F. -/
def lockable2 (b : Byte) (reg : BitVec 3) : Bool :=
  b ∈ [0xC0, 0xC1, 0xB0, 0xB1, 0xAB, 0xB3, 0xBB] || (b = 0xBA && decide (reg ∈ [5, 6, 7]))

theorem formLockable_ite {p : BitVec 3 → Bool} {c : Prop} [Decidable c] {f g : Form} (hf : c → FormLockable p f)
    (hg : ¬ c → FormLockable p g) : FormLockable p (if c then f else g) := by
  split
  · next h => exact hf h
  · next h => exact hg h

theorem groupLockable_ite {p : Bool} {c : Prop} [Decidable c] {f g : Group} (hf : c → GroupLockable p f)
    (hg : ¬ c → GroupLockable p g) : GroupLockable p (if c then f else g) := by
  split
  · next h => exact hf h
  · next h => exact hg h

/-- Opcodes without a rule, lockable with a memory operand where `q` allows the reg field. -/
theorem formLockable_noRule {p : BitVec 3 → Bool} {q : BitVec 3 → Bool} (h : ∀ reg, q reg = p reg) :
    FormLockable p (.modRm fun reg x => .noRule (x.isMem && q reg)) :=
  fun reg x => congrArg (x.isMem && ·) (h reg)

/-- NOT and NEG stand in R190's list; DIV and IDIV, in the same groups, are rows of the table. -/
theorem formLockable_groupF6 {p : BitVec 3 → Bool} {g : BitVec 3 → Rm (BitVec 3) → Group} (hg : g ∈ [groupF6, groupF7])
    (h : ∀ reg, p reg = (reg == 2 || reg == 3)) : FormLockable p (.modRm g) := by
  intro reg x
  rw [h reg]
  fin_cases hg <;>
  exact groupLockable_ite (fun _ => trivial) fun _ => groupLockable_ite (fun _ => trivial) fun _ => rfl

/-- Each shift group holds one opcode without a rule, /6, which is not in R190's list. -/
theorem formLockable_shift {p : BitVec 3 → Bool} {g : BitVec 3 → Rm (BitVec 3) → Group}
    (hg : g ∈ [groupD0, groupD1, groupD2, groupD3, groupC0, groupC1]) (h : ∀ reg, p reg = false) :
    FormLockable p (.modRm g) := by
  intro reg x
  rw [h reg, Bool.and_false]
  fin_cases hg <;>
  · iterate 7 refine groupLockable_ite (fun _ => trivial) fun _ => ?_
    rfl

theorem form1Other_lockable {b : Byte} (h6 : b ≠ 0xF6) (h7 : b ≠ 0xF7) :
    FormLockable (lockable1 b) (form1Other b) := by
  refine formLockable_ite (fun _ _ _ => trivial) fun _ => formLockable_ite (fun _ _ _ => trivial) fun _ => ?_
  refine formLockable_ite (fun _ => trivial) fun _ => ?_
  refine formLockable_ite (fun h reg x => ?_) fun h0 => ?_
  · have hp : lockable1 b reg = true := by
      simp only [BitVec.ofNat_eq_ofNat] at h
      simp [lockable1, h]
    rw [hp, Bool.and_true]
    rfl
  refine formLockable_ite (fun h => formLockable_noRule fun reg => ?_) fun h1 => ?_
  · rcases h with rfl | rfl | rfl <;> decide +revert
  refine formLockable_ite (fun h => formLockable_noRule fun reg => ?_) fun h2 => ?_
  · rcases h with rfl | rfl <;> decide +revert
  · intro reg
    simp only [BitVec.ofNat_eq_ofNat, ne_eq] at h0 h1 h2 h6 h7
    simp [lockable1, h0, h1, h2, h6, h7]

theorem form1_lockable (b : Byte) : FormLockable (lockable1 b) (form1 b) := by
  iterate 27 refine formLockable_ite (fun _ => trivial) fun _ => ?_
  iterate 5 refine formLockable_ite (fun _ _ _ => trivial) fun _ => ?_
  refine formLockable_ite (by rintro rfl; exact formLockable_groupF6 (by simp) (by decide)) fun h6 => ?_
  refine formLockable_ite (by rintro rfl; exact formLockable_groupF6 (by simp) (by decide)) fun h7 => ?_
  iterate 6 refine formLockable_ite (by rintro rfl; exact formLockable_shift (by simp) (by decide)) fun _ => ?_
  iterate 11 refine formLockable_ite (fun _ => trivial) fun _ => ?_
  exact form1Other_lockable h6 h7

theorem memOnly_lockable (x : Rm (BitVec 3)) (f : MemRef → Instr) : GroupLockable false (memOnly x f) := by
  cases x with
  | reg => rfl
  | mem => trivial

/-- Nothing in the group 0F 01 is in R190's list. -/
theorem formLockable_group0F01 {p : BitVec 3 → Bool} (h : ∀ reg, p reg = false) :
    FormLockable p (.modRm group0F01) := by
  intro reg x
  rw [h reg, Bool.and_false]
  refine groupLockable_ite (fun _ => memOnly_lockable ..) fun _ => groupLockable_ite (fun _ => memOnly_lockable ..) fun _ => ?_
  exact groupLockable_ite (fun _ => trivial) fun _ => groupLockable_ite (fun _ => memOnly_lockable ..) fun _ => rfl

/-- Nor is anything in the group 0F 00. -/
theorem formLockable_group0F00 {p : BitVec 3 → Bool} (h : ∀ reg, p reg = false) :
    FormLockable p (.modRm group0F00) := by
  intro reg x
  rw [h reg, Bool.and_false]
  exact groupLockable_ite (fun _ => rfl) fun _ => trivial

theorem form2_lockable (b : Byte) : FormLockable (lockable2 b) (form2 b) := by
  refine formLockable_ite (by rintro rfl; exact formLockable_group0F01 (by decide)) fun _ => ?_
  iterate 9 refine formLockable_ite (fun _ => trivial) fun _ => ?_
  refine formLockable_ite (by rintro rfl; exact formLockable_group0F00 (by decide)) fun _ => ?_
  refine formLockable_ite (fun _ _ _ => trivial) fun _ => ?_
  refine formLockable_ite (fun h reg x => ?_) fun h0 => ?_
  · have hp : lockable2 b reg = true := by
      simp only [BitVec.ofNat_eq_ofNat] at h
      simp [lockable2, h]
    rw [hp, Bool.and_true]
    rfl
  refine formLockable_ite (by rintro rfl; exact formLockable_noRule (by decide)) fun h1 => ?_
  · intro reg
    simp only [BitVec.ofNat_eq_ofNat] at h0 h1
    simp [lockable2, h0, h1]
theorem parseRm_isMem {a32 : Bool} {m : Byte} {r : List Byte} {x : Rm (BitVec 3)} {k : Nat}
    (h : parseRm a32 m r = some (x, k)) : x.isMem = decide (modField m ≠ 3) := by
  unfold parseRm at h
  split at h
  · next hm =>
    cases h
    simp [hm, Rm.isMem]
  · next hm =>
    obtain ⟨y, -, e⟩ := Option.map_eq_some_iff.1 h
    cases e
    exact (decide_eq_true hm).symm

/-- What follows the opcode of a form without a rule says whether it is lockable. -/
def lockableTail (p : BitVec 3 → Bool) : List Byte → Bool
  | [] => false
  | m :: _ => decide (modField m ≠ 3) && p (regField m)

theorem finishForm_noRule {a32 l : Bool} {n : Nat} {r : List Byte} {f : Form} {p : BitVec 3 → Bool} (hf : FormLockable p f)
    (h : finishForm a32 n r f = .noRule l) : l = lockableTail p r := by
  cases f with
  | bare | escOrWait => cases h
  | noRule =>
    cases h
    cases r with
    | nil => rfl
    | cons m r => rw [lockableTail, hf (regField m), Bool.and_false]
  | imm f => cases r <;> cases h
  | modReg f =>
    cases r with
    | nil => cases h
    | cons m r =>
      simp only [finishForm] at h
      split at h <;> cases h
  | modRm g =>
    cases r with
    | nil => cases h
    | cons m r =>
      simp only [finishForm] at h
      split at h
      · cases h
      · next x k hp =>
        have hg := hf (regField m) x
        rw [parseRm_isMem hp] at hg
        split at h
        · cases h
        · split at h <;> cases h
        · cases h
        · next hl =>
          cases h
          rw [hl] at hg
          exact hg
        · cases h

theorem lockableBytes_form1 {b : Byte} (hb : b ≠ 0x0F) (r : List Byte) :
    lockableBytes (b :: r) = lockableTail (lockable1 b) r := by
  cases r with
  | nil => rfl
  | cons m r =>
    simp only [lockableBytes, if_neg hb]
    rfl

theorem lockableBytes_form2 (b : Byte) (r : List Byte) :
    lockableBytes (0x0F :: b :: r) = lockableTail (lockable2 b) r := by
  cases r <;> rfl

/-- The decoder calls an opcode without a rule lockable exactly where R190's list has it with a memory operand. -/
theorem decode_noRule_lockable {a32 l : Bool} {bs : List Byte} (h : decode a32 bs = .noRule l) : l = lockableBytes bs := by
  match bs, h with
  | [], h => cases h
  | b :: r, h =>
    by_cases hb : b = 0x0F
    · subst hb
      match r, h with
      | [], h => cases h
      | b2 :: r2, h => exact (finishForm_noRule (form2_lockable b2) h).trans (lockableBytes_form2 b2 r2).symm
    · rw [decode_form1 r hb] at h
      exact (finishForm_noRule (form1_lockable b) h).trans (lockableBytes_form1 hb r).symm

/-! The check of LOCK (R110, R190). -/

/-- Where the reading of R110 holds, LOCK raises #GP(0) before anything else. -/
theorem lockGuard_gp0 {s : State} (l : Bool) (hl : s.pfx.lock = true)
    (h : s.vm = true ∧ s.iopl < 3 ∧ Config.lockIoplSensitive = true) : lockGuard s l = .error (.exc excGP0) := by
  obtain ⟨hv, hi, hc⟩ := h
  simp only [lockGuard, hl, hv, hi, hc, decide_true, Bool.and_true, if_true]
  rfl

/-- Elsewhere it is legal or raises #UD (R190). -/
theorem lockGuard_locked {s : State} (l : Bool) (hl : s.pfx.lock = true)
    (h : ¬ (s.vm = true ∧ s.iopl < 3 ∧ Config.lockIoplSensitive = true)) :
    lockGuard s l = if l then .ok () else .error (.exc excUD) := by
  have hc : ¬ (s.vm && decide (s.iopl < 3) && Config.lockIoplSensitive) = true := by
    simpa only [Bool.and_eq_true, decide_eq_true_eq, and_assoc] using h
  simp only [lockGuard, hl, if_true, if_neg hc]
  rfl

/-- An illegal LOCK stops with an exception, and its delivery is `lockFaults`. -/
theorem lockGuard_illegal {s : State} (hl : s.pfx.lock = true) :
    ∃ e, lockGuard s false = .error e ∧ stopped s e = lockFaults s := by
  by_cases h : s.vm = true ∧ s.iopl < 3 ∧ Config.lockIoplSensitive = true
  · refine ⟨_, lockGuard_gp0 false hl h, ?_⟩
    rw [lockFaults, if_pos h, stopped_gp0]
  · refine ⟨_, lockGuard_locked false hl h, ?_⟩
    rw [lockFaults, if_neg h]
    rfl

/-! The outcomes that decoding ends with. -/

theorem unsupportedOutcome_unlocked {s : State} (hv : s.vm = true) (hl : s.pfx.lock = false) :
    unsupportedOutcome s = faults s 6 none := by
  simp only [unsupportedOutcome, mode_v86 hv, lockGuard_none false hl]
  rfl

theorem unsupportedOutcome_locked {s : State} (hv : s.vm = true) (hl : s.pfx.lock = true) :
    unsupportedOutcome s = lockFaults s := by
  obtain ⟨e, hg, he⟩ := lockGuard_illegal hl
  simp only [unsupportedOutcome, mode_v86 hv, hg, he]

theorem escOutcome_pending {s : State} (h : s.fpPending = true) :
    escOutcome s =
      deliver { s with fpPending := false } { vector := 16, err := none, ext := false, ret := s.eip, trap := false } :=
  if_pos h

theorem escOutcome_unlocked {s : State} (h : s.fpPending = false) (hl : s.pfx.lock = false) :
    escOutcome s = .refused .floatingPoint := by
  simp only [escOutcome, h, lockGuard_none false hl, Bool.false_eq_true, if_false]

theorem escOutcome_locked {s : State} (h : s.fpPending = false) (hl : s.pfx.lock = true) :
    escOutcome s = lockFaults s := by
  obtain ⟨e, hg, he⟩ := lockGuard_illegal hl
  simp only [escOutcome, h, hg, he, Bool.false_eq_true, if_false]

theorem noRuleOutcome_unlocked {s : State} (l : Bool) (hl : s.pfx.lock = false) :
    noRuleOutcome s l = .refused .noRule := by
  simp only [noRuleOutcome, lockGuard_none l hl]

theorem noRuleOutcome_illegal {s : State} (hl : s.pfx.lock = true) : noRuleOutcome s false = lockFaults s := by
  obtain ⟨e, hg, he⟩ := lockGuard_illegal hl
  simp only [noRuleOutcome, hg, he]

theorem noRuleOutcome_lockable {s : State} (hl : s.pfx.lock = true) :
    noRuleOutcome s true =
      if s.vm = true ∧ s.iopl < 3 ∧ Config.lockIoplSensitive = true then faults s 13 (some 0) else .refused .noRule := by
  split
  · next h => simp only [noRuleOutcome, lockGuard_gp0 true hl h, stopped_gp0]
  · next h => simp only [noRuleOutcome, lockGuard_locked true hl h, if_true]

/-- Settles O12: how the opcodes decode, then the outcome of each answer of the decoder at a quiet boundary. -/
theorem opcodesOutsideTheTable : Obligations.OpcodesOutsideTheTable := by
  refine ⟨fun a32 b m r hp => ⟨?_, ?_, ?_, fun hr => ?_, decode_esc hp, rfl⟩, fun s hq hi => ?_⟩
  · exact (decode_form1 _ (by decide)).trans (finishForm_unsupported (g := fun _ _ => .unsupported) hp fun _ => rfl)
  · exact (decode_form2 ..).trans (finishForm_unsupported (g := fun _ _ => .unsupported) hp fun _ => rfl)
  · exact (decode_form2 ..).trans (finishForm_unsupported (g := fun _ _ => .unsupported) hp fun _ => rfl)
  · exact (decode_form2 ..).trans (finishForm_unsupported (g := group0F00) hp (group0F00_low hr))
  have hstep {o : Out} (h : fetchDecode s = .outcome o) : step s = o :=
    step_of_quiet_outcome hq ((nextInstruction_fetch hi).trans h)
  have hunsup (hd : decode s.addr32 s.window.1 = .unsupported) : step s = unsupportedOutcome s :=
    hstep (by simp only [fetchDecode, hd])
  have hesc (hd : decode s.addr32 s.window.1 = .escOrWait) : step s = escOutcome s :=
    hstep (by simp only [fetchDecode, hd])
  refine ⟨fun hv hl hd => ?_, fun hd => ⟨fun hp => ?_, fun hp hl => ?_, fun hp hl => ?_⟩, fun hv hl hd => ?_,
    fun l hd => ⟨decode_noRule_lockable hd, ?_⟩⟩
  · exact (hunsup hd).trans (unsupportedOutcome_unlocked hv hl)
  · exact (hesc hd).trans (escOutcome_pending hp)
  · exact (hesc hd).trans (escOutcome_unlocked hp hl)
  · exact (hesc hd).trans (escOutcome_locked hp hl)
  · exact (hunsup hd).trans (unsupportedOutcome_locked hv hl)
  · have hnorule : step s = noRuleOutcome s l := hstep (by simp only [fetchDecode, hd])
    refine ⟨fun hl => ?_, fun hl hf => ?_, fun hl ht => ?_⟩
    · exact hnorule.trans (noRuleOutcome_unlocked l hl)
    · subst hf
      exact hnorule.trans (noRuleOutcome_illegal hl)
    · subst ht
      exact hnorule.trans (noRuleOutcome_lockable hl)

end Sys2Proof.Proofs
end

section
/-! PROOFS. The bytes of R71 before an opcode, effective addresses, and the special registers (O13, O14, O15, O32). -/

namespace Sys2Proof.Proofs

open Sys2Proof.Machine Sys2Proof.Safety Sys2Proof.Laws

/-! The bytes of R71: what they record, and the sizes and the segment that they select. -/

/-- Settles O13: the meaning of each of the eleven. -/
theorem prefixBytesRecord : Obligations.PrefixBytesRecord :=
  fun _ => ⟨rfl, rfl, rfl, rfl, rfl, rfl, rfl, rfl, rfl, rfl, rfl⟩

theorem code32_v86 {s : State} (hv : s.vm = true) : s.code32 = false := by
  rw [State.code32, mode_v86 hv]
  rfl

theorem op32_v86 {s : State} (hv : s.vm = true) : s.op32 = s.pfx.opSize := by
  rw [State.op32, code32_v86 hv, Bool.false_xor]

theorem addr32_v86 {s : State} (hv : s.vm = true) : s.addr32 = s.pfx.addrSize := by
  rw [State.addr32, code32_v86 hv, Bool.false_xor]

theorem operandSeg_override {s : State} {r : SReg} (m : MemRef) (h : s.pfx.seg = some r) : operandSeg s m = r := by
  rw [operandSeg, h]
  rfl

theorem operandSeg_default {s : State} (m : MemRef) (h : s.pfx.seg = none) : operandSeg s m = defaultSeg m := by
  rw [operandSeg, h]
  rfl

/-- Settles O14: the default sizes are 16 in V86 mode, and the default segment follows the base register. -/
theorem prefixBytesSelectSizesAndSegment : Obligations.PrefixBytesSelectSizesAndSegment := by
  intro s m hv
  refine ⟨op32_v86 hv, ?_, addr32_v86 hv, fun r hr => operandSeg_override m hr, fun hn => ?_⟩
  · rw [State.opBytes, op32_v86 hv]
  · rw [operandSeg_default m hn]
    rcases m with (d | ⟨b, d⟩) | (d | ⟨b, d⟩ | ⟨sc, ix, b, d⟩ | ⟨sc, ix, d⟩)
    · rfl
    · cases b <;> rfl
    · rfl
    · cases b <;> rfl
    · cases b <;> rfl
    · rfl

/-! Effective addresses, on unbounded integers. -/

theorem signExtend_toNat {m : Nat} (hm : 8 ≤ m) (d : Byte) : (d.signExtend m).toNat = signedByte m d := by
  have hpow : 2 ^ 8 ≤ 2 ^ m := Nat.pow_le_pow_right (by decide) hm
  have hd := d.isLt
  rw [BitVec.toNat_signExtend, BitVec.toNat_setWidth, BitVec.msb_eq_decide, Nat.mod_eq_of_lt (by omega), signedByte]
  by_cases h : d.toNat < 128
  · simp [h, show ¬ 128 ≤ d.toNat by omega]
  · simp only [h, show 2 ^ (8 - 1) ≤ d.toNat by omega, decide_true, if_true, if_false]
    omega

/-- The value of a 16-bit form's displacement as a number below 2^16 (R79). -/
def disp16Nat : Disp16 → Nat
  | .none => 0
  | .d8 d => signedByte 16 d
  | .d16 d => d.toNat

theorem disp16_value_toNat (d : Disp16) : (Disp16.value d).toNat = disp16Nat d := by
  cases d with
  | none | d16 => rfl
  | d8 d => exact signExtend_toNat (by decide) d

/-- The value of a 32-bit form's displacement as a number below 2^32 (R79). -/
def disp32Nat : Disp32 → Nat
  | .none => 0
  | .d8 d => signedByte 32 d
  | .d32 d => d.toNat

theorem disp32_value_toNat (d : Disp32) : (Disp32.value d).toNat = disp32Nat d := by
  cases d with
  | none | d32 => rfl
  | d8 d => exact signExtend_toNat (by decide) d

/-- The unbounded sum of the registers of a 16-bit form (R76). -/
def base16Nat (s : State) : Base16 → Nat
  | .bxsi => (s.reg .ebx).toNat + (s.reg .esi).toNat
  | .bxdi => (s.reg .ebx).toNat + (s.reg .edi).toNat
  | .bpsi => (s.reg .ebp).toNat + (s.reg .esi).toNat
  | .bpdi => (s.reg .ebp).toNat + (s.reg .edi).toNat
  | .si => (s.reg .esi).toNat
  | .di => (s.reg .edi).toNat
  | .bp => (s.reg .ebp).toNat
  | .bx => (s.reg .ebx).toNat

theorem reg16_toNat (s : State) (r : Reg) : (s.reg16 r).toNat = (s.reg r).toNat % 2 ^ 16 := BitVec.toNat_setWidth ..

theorem base16Sum_toNat (s : State) (b : Base16) : (base16Sum s b).toNat = base16Nat s b % 2 ^ 16 := by
  cases b with
  | bxsi | bxdi | bpsi | bpdi =>
    rw [base16Sum, BitVec.toNat_add, reg16_toNat, reg16_toNat, ← Nat.add_mod]
    rfl
  | si | di | bp | bx => exact reg16_toNat ..

/-- The unbounded value of a SIB byte's index, shifted by the scale (R78). -/
def sibIndexNat (s : State) (sc : BitVec 2) (ix : Reg) : Nat :=
  if ix = .esp then 0 else (s.reg ix).toNat * 2 ^ sc.toNat

theorem sibIndex_toNat (s : State) (sc : BitVec 2) (ix : Reg) :
    (sibIndex s sc ix).toNat = sibIndexNat s sc ix % 2 ^ 32 := by
  unfold sibIndex sibIndexNat
  split
  · rfl
  · rw [BitVec.toNat_shiftLeft, Nat.shiftLeft_eq]

theorem effAddr_based16_toNat (s : State) (b : Base16) (d : Disp16) :
    (effAddr s (.a16 (.based b d))).toNat = (base16Nat s b + disp16Nat d) % 2 ^ 16 := by
  rw [effAddr, BitVec.toNat_setWidth_of_le (by decide), BitVec.toNat_add, base16Sum_toNat, disp16_value_toNat,
    Nat.mod_add_mod]

theorem effAddr_based32_toNat (s : State) (b : Reg) (d : Disp32) :
    (effAddr s (.a32 (.based b d))).toNat = ((s.reg b).toNat + disp32Nat d) % 2 ^ 32 := by
  rw [effAddr, BitVec.toNat_add, disp32_value_toNat]

theorem effAddr_sib_toNat (s : State) (sc : BitVec 2) (ix b : Reg) (d : Disp32) :
    (effAddr s (.a32 (.sib sc ix b d))).toNat = ((s.reg b).toNat + sibIndexNat s sc ix + disp32Nat d) % 2 ^ 32 := by
  rw [effAddr, BitVec.toNat_add, BitVec.toNat_add, sibIndex_toNat, disp32_value_toNat, Nat.add_mod_mod, Nat.mod_add_mod]

theorem effAddr_sibDisp_toNat (s : State) (sc : BitVec 2) (ix : Reg) (d : Dword) :
    (effAddr s (.a32 (.sibDisp sc ix d))).toNat = (sibIndexNat s sc ix + d.toNat) % 2 ^ 32 := by
  rw [effAddr, BitVec.toNat_add, sibIndex_toNat, Nat.mod_add_mod]

/-- Settles O15: each form by the values of its parts, summed modulo the address size. -/
theorem effectiveAddresses : Obligations.EffectiveAddresses :=
  fun s => ⟨fun _ => BitVec.toNat_setWidth_of_le (by decide), effAddr_based16_toNat s, fun _ => rfl,
    effAddr_based32_toNat s, effAddr_sib_toNat s, effAddr_sibDisp_toNat s⟩

/-! The special registers. -/

theorem ctrlRegs_get_isSome (c : CtrlRegs) (n : BitVec 3) : (c.get n).isSome = decide (n = 0 ∨ n = 2 ∨ n = 3) := by
  unfold CtrlRegs.get
  grind

theorem ctrlRegs_set_isSome (c : CtrlRegs) (n : BitVec 3) (v : Dword) : (c.set n v).isSome = decide (n = 0 ∨ n = 2 ∨ n = 3) := by
  unfold CtrlRegs.set
  grind

/-- What a control register holds after a write of any one that exists. -/
theorem ctrlRegs_get_set {c c' : CtrlRegs} {n : BitVec 3} {v : Dword} (h : c.set n v = some c') (k : BitVec 3) :
    c'.get k = if k = n then some v else c.get k := by
  unfold CtrlRegs.set at h
  split_ifs at h <;> cases h
  all_goals
    unfold CtrlRegs.get
    grind

theorem debugRegs_get_isSome (d : DebugRegs) (n : BitVec 3) : (d.get n).isSome = decide (n ≠ 4 ∧ n ≠ 5) := by
  unfold DebugRegs.get
  grind

theorem debugRegs_set_isSome (d : DebugRegs) (n : BitVec 3) (v : Dword) : (d.set n v).isSome = decide (n ≠ 4 ∧ n ≠ 5) := by
  unfold DebugRegs.set
  grind

/-- What a debug register holds after a write of any one that exists. -/
theorem debugRegs_get_set {d d' : DebugRegs} {n : BitVec 3} {v : Dword} (h : d.set n v = some d') (k : BitVec 3) :
    d'.get k = if k = n then some v else d.get k := by
  unfold DebugRegs.set at h
  split_ifs at h <;> cases h
  all_goals
    unfold DebugRegs.get
    grind

theorem testRegs_get_isSome (t : TestRegs) (n : BitVec 3) : (t.get n).isSome = decide (3 ≤ n) := by
  unfold TestRegs.get
  grind

theorem testRegs_set_isSome (t : TestRegs) (n : BitVec 3) (v : Dword) : (t.set n v).isSome = decide (3 ≤ n) := by
  unfold TestRegs.set
  grind

/-- What a test register holds after a write of any one that exists. -/
theorem testRegs_get_set {t t' : TestRegs} {n : BitVec 3} {v : Dword} (h : t.set n v = some t') (k : BitVec 3) :
    t'.get k = if k = n then some v else t.get k := by
  unfold TestRegs.set at h
  split_ifs at h <;> cases h
  all_goals
    unfold TestRegs.get
    grind

/-- Settles O32: the registers that the numbers name by evaluation, the rest by what each group holds after a write. -/
theorem specialRegisterFiles : Obligations.SpecialRegisterFiles := by
  refine ⟨fun c n v => ?_, fun d n v => ?_, fun t n v => ?_⟩
  · refine ⟨⟨rfl, rfl, rfl⟩, ⟨rfl, rfl, rfl⟩, ctrlRegs_get_isSome c n, ctrlRegs_set_isSome c n v, fun c' h => ?_⟩
    exact ⟨by rw [ctrlRegs_get_set h, if_pos rfl], fun k hk => by rw [ctrlRegs_get_set h, if_neg hk]⟩
  · refine ⟨⟨rfl, rfl, rfl, rfl, rfl, rfl⟩, ⟨rfl, rfl, rfl, rfl, rfl, rfl⟩, debugRegs_get_isSome d n,
      debugRegs_set_isSome d n v, fun d' h => ?_⟩
    exact ⟨by rw [debugRegs_get_set h, if_pos rfl], fun k hk => by rw [debugRegs_get_set h, if_neg hk]⟩
  · refine ⟨⟨rfl, rfl, rfl, rfl, rfl⟩, ⟨rfl, rfl, rfl, rfl, rfl⟩, testRegs_get_isSome t n, testRegs_set_isSome t n v,
      fun t' h => ?_⟩
    exact ⟨by rw [testRegs_get_set h, if_pos rfl], fun k hk => by rw [testRegs_get_set h, if_neg hk]⟩

end Sys2Proof.Proofs
end

section
/-! PROOFS. Delivery through a gate of the IDT: a trap or interrupt gate that is open enters the handler, and a task gate switches
tasks. -/

namespace Sys2Proof.Proofs

open Sys2Proof.Machine Sys2Proof.Safety Sys2Proof.Laws

/-! Entry into a handler. -/

theorem entryFlags_int32 (f : Eflags) (g : Gate) :
    entryFlags f (g.kind == .int32) =
      { f with vm := false, tf := false, nt := false, rf := false, intf := if g.kind = .int32 then false else f.intf } := by
  simp only [entryFlags, beq_iff_eq]

theorem handlerState_eq_inHandler (u : State) (trap : Bool) (g : Gate) (code : SegDesc) (ss0 : Word) (stack : SegDesc)
    (esp : Dword) : handlerState u trap g code ss0 stack esp = inHandler u trap g code ss0 stack esp := by
  rw [handlerState, entryFlags_int32, inHandler]

section OpenGate

variable {s u : State} {ev : Event} {g : Gate} {code stack : SegDesc} {ss0 : Word} {esp0 esp : Dword}

theorem gateOpen_validStack (h : GateOpen s ev g code ss0 stack esp0 u esp) : validStack ss0 stack = true := by
  obtain ⟨hnull, hdata, hdpl, hrpl⟩ := h.stackValid
  simp only [validStack, descFits, bne_iff_ne.2 hnull, hdata, hdpl, hrpl]
  rfl

/-- Every check of R203 and R231 passes, so the frame is pushed and the handler's state is entered. -/
theorem enterHandler_of_gateOpen (h : GateOpen s ev g code ss0 stack esp0 u esp) :
    enterHandler s ev g code = .ok (inHandler u ev.trap g code ss0 stack esp) := by
  have hss0 : (ss0.setWidth 32).setWidth 16 = ss0 := BitVec.setWidth_setWidth_of_le ss0 (by decide)
  rw [enterHandler, insideDelivery_eq_ok, h.tss, if_neg Bool.false_ne_true, ok_bind _ h.readsEsp0, ok_bind _ h.readsSs0, hss0,
    h.stackSeg]
  dsimp only
  rw [if_pos (gateOpen_validStack h), ok_bind _ h.frame, handlerState_eq_inHandler]

theorem deliverGate_of_gateOpen (h : GateOpen s ev g code ss0 stack esp0 u esp) :
    deliverGate s ev g = .done (inHandler u ev.trap g code ss0 stack esp) := by
  have htarget : s.gateTarget g = some code := gateTarget_some.2 ⟨h.target, h.isCode, h.nonconforming, h.level0⟩
  rcases h.kind with hk | hk <;>
    simp only [deliverGate, h.present, if_true, hk, htarget, enterHandler_of_gateOpen h, Delivered.of]

end OpenGate

/-! Delivery in V86 mode. -/

/-- A gate that delivery gets through decides alone: the #GP of R206 is not reached. -/
theorem deliver_of_deliverGate {s t : State} {ev : Event} {g : Gate} (hv : s.vm = true) (hg : readGate s ev.vector = .ok g)
    (h : deliverGate s ev g = .done t) : deliver s ev = .next t := by
  simp only [deliver, mode_v86 hv, deliverV86, deliverOnce, hg, h]

/-- Delivery through an open trap or interrupt gate (R203, R205, R222). -/
theorem deliver_of_gateOpen {s u : State} {ev : Event} {g : Gate} {code stack : SegDesc} {ss0 : Word} {esp0 esp : Dword}
    (hv : s.vm = true) (h : GateOpen s ev g code ss0 stack esp0 u esp) :
    deliver s ev = .next (inHandler u ev.trap g code ss0 stack esp) :=
  deliver_of_deliverGate hv h.gate (deliverGate_of_gateOpen h)

/-- Delivery through a present task gate is a task switch that saves the event's EIP (R207). -/
theorem deliver_of_taskGate {s t : State} {ev : Event} {g : Gate} (hv : s.vm = true) (hg : readGate s ev.vector = .ok g)
    (hp : g.present = true) (hk : g.kind = .task) (ht : taskSwitch s g.sel ev.ret = .ok t) :
    deliver s ev = .next { t with trapPending := t.trapPending || ev.trap } := by
  have henter : enterTask s ev g = .ok { t with trapPending := t.trapPending || ev.trap } := ok_bind _ ht
  refine deliver_of_deliverGate hv hg ?_
  simp only [deliverGate, hp, if_true, hk, henter, Delivered.of]

end Sys2Proof.Proofs
end

section
/-! PROOFS. The IOPL-sensitive instructions (O18 to O23, O57): with IOPL below 3 each traps in V86 mode before any effect; else
each completes with the effects of its rule. IRET in protected mode enters V86 mode or switches tasks. -/

namespace Sys2Proof.Proofs

open Sys2Proof.Machine Sys2Proof.Safety Sys2Proof.Laws

/-! The frame of the six instructions. -/

section Frame

variable {s t : State} {body : State → M State} (hl : s.pfx.lock = false)
include hl

theorem run_completed (h : body s.begin = .ok t.begin) : run s false body = .next (completed s t) :=
  run_ok (lockGuard_none false hl) h

theorem runJump_jumped (h : body s.begin = .ok t.begin) : runJump s body = .next (jumped s t) :=
  runJump_ok (lockGuard_none false hl) h

theorem run_stops {e : Stop} (h : body s.begin = .error e) : run s false body = stopped s e :=
  run_error (lockGuard_none false hl) h

theorem runJump_stops {e : Stop} (h : body s.begin = .error e) : runJump s body = stopped s e :=
  runJump_error (lockGuard_none false hl) h

end Frame

theorem sensitiveIf_v86 {s : State} (hv : s.vm = true) : sensitiveIf s = sensitive s := by
  simp only [sensitiveIf, mode_v86 hv]

theorem iopl_eq_three {s : State} (h : ¬ s.iopl < 3) : s.iopl = 3 := by
  revert h
  generalize s.iopl = i
  decide +revert

/-- INT n's check of LOCK leaves its check of IOPL. -/
theorem intN_check {s : State} (hl : s.pfx.lock = false) : (do lockGuard s false; sensitive s : M Unit) = sensitive s :=
  ok_bind _ (lockGuard_none false hl)

/-- Settles O18: in each of the six the check of IOPL comes before any other effect. -/
theorem sensitiveInstructionsTrap : Obligations.SensitiveInstructionsTrap := by
  intro i s hmem hl hv hi
  have hlow : sensitive s.begin = .error (.exc excGP0) := sensitive_low hv hi
  have hlowIf : sensitiveIf s.begin = .error (.exc excGP0) := (sensitiveIf_v86 hv).trans hlow
  rw [← stopped_gp0]
  unfold exec
  simp only [List.mem_cons, List.not_mem_nil, or_false] at hmem
  rcases hmem with (rfl | rfl | rfl | rfl | rfl) | ⟨n, rfl⟩
  case inl.inl | inl.inr.inl => exact run_stops hl (error_bind _ hlowIf)
  case inl.inr.inr.inl | inl.inr.inr.inr.inl => exact run_stops hl (error_bind _ hlow)
  case inl.inr.inr.inr.inr => exact runJump_stops hl (error_bind _ hlow)
  case inr =>
    show execIntN n s = _
    rw [execIntN, intN_check hl, sensitive_low hv hi]

/-! CLI and STI. -/

/-- Settles O19: with IOPL below 3 by O18; else the check passes, and STI's shadow is its own, set after the old one ended. -/
theorem cliStiResult : Obligations.CliStiResult := by
  intro s hl hv
  split
  case isTrue hi =>
    exact ⟨sensitiveInstructionsTrap .cli s (by simp) hl hv hi, sensitiveInstructionsTrap .sti s (by simp) hl hv hi⟩
  case isFalse hi =>
    have hok : sensitiveIf s.begin = .ok () := (sensitiveIf_v86 hv).trans (sensitive_ok fun _ => iopl_eq_three hi)
    have hsti : execSti s = .next _ := run_ok (lockGuard_none false hl) (ok_bind _ hok)
    unfold exec
    exact ⟨run_completed hl (ok_bind _ hok), hsti⟩

/-! The stack pointer and the flags in V86 mode. -/

theorem setStackPtr_v86 {s : State} (hv : s.vm = true) (v : Dword) : s.setStackPtr v = s.setReg16 .esp (v.setWidth 16) := by
  simp [State.setStackPtr, State.setRegW, State.stack32, mode_v86 hv]

/-- SP moves modulo 2^16: the sum is made in 32 bits and its low word written. -/
theorem stackPtr_add_low {s : State} (hv : s.vm = true) (n : Nat) :
    (s.stackPtr + BitVec.ofNat 32 n).setWidth 16 = s.reg16 .esp + BitVec.ofNat 16 n := by
  rw [stackPtr_v86 hv, BitVec.setWidth_add _ _ (by decide), BitVec.setWidth_setWidth_of_le _ (by decide),
    BitVec.setWidth_ofNat_of_le (by decide), BitVec.setWidth_eq]

theorem loadsIf_v86 {s : State} (hv : s.vm = true) : s.loadsIf = true := by
  simp [State.loadsIf, mode_v86 hv]

theorem loadsIopl_v86 {s : State} (hv : s.vm = true) : s.loadsIopl = false := by
  simp [State.loadsIopl, hv]

theorem load_v86 {s : State} (hv : s.vm = true) (image : Eflags) (loadRf loadAc : Bool) :
    s.eflags.load image s.loadsIf s.loadsIopl loadRf loadAc =
      { image with
        vm := s.eflags.vm
        iopl := s.eflags.iopl
        rf := if loadRf then image.rf else s.eflags.rf
        ac := if loadAc then image.ac else s.eflags.ac } := by
  rw [loadsIf_v86 hv, loadsIopl_v86 hv]
  rfl

/-! PUSHF and POPF. -/

theorem push_v86 {s : State} {n : Nat} {pas : List Nat} (hv : s.vm = true) (v : Dword)
    (h : Accesses s .write .ss ((s.reg16 .esp - BitVec.ofNat 16 n).setWidth 32) n pas) :
    push s n v = .ok ((s.storeAt pas v).setReg16 .esp (s.reg16 .esp - BitVec.ofNat 16 n)) := by
  have hsp := pushOff_v86 hv n
  refine push_eq_ok.2 ⟨pas, hsp ▸ h, ?_⟩
  rw [setStackPtr_v86 (show (s.storeAt pas v).vm = true from hv), hsp, BitVec.setWidth_setWidth_of_le _ (by decide),
    BitVec.setWidth_eq]

theorem pop_v86 {s : State} {n : Nat} {pas : List Nat} (hv : s.vm = true)
    (h : Accesses s .read .ss ((s.reg16 .esp).setWidth 32) n pas) :
    pop s n = .ok (s.mem.readAll pas, s.setReg16 .esp (s.reg16 .esp + BitVec.ofNat 16 n)) := by
  refine pop_eq_ok.2 ⟨pas, (stackPtr_v86 hv).symm ▸ h, rfl, ?_⟩
  rw [setStackPtr_v86 hv, stackPtr_add_low hv]

theorem popfFlags_v86 {s : State} (hv : s.vm = true) (image : Dword) :
    popfFlags s image =
      { Eflags.ofWord image with
        vm := s.eflags.vm
        iopl := s.eflags.iopl
        rf := if s.op32 then false else s.eflags.rf
        ac := if s.op32 then image.getLsbD 18 else s.eflags.ac } := by
  rw [popfFlags, load_v86 hv]
  cases s.op32 <;> rfl

/-- Settles O20: `push_v86` and `pop_v86` give the access and SP, `popfFlags_v86` the flags loaded. -/
theorem pushfPopfResult : Obligations.PushfPopfResult := by
  refine ⟨fun s pas hl hv hi h => ?_, fun s pas hl hv hi h => ?_⟩
  · have hok : sensitive s.begin = .ok () := sensitive_ok fun _ => hi
    have hpush := push_v86 (s := s.begin) hv (pushfImage s) (accesses_begin.2 h)
    unfold exec
    exact run_completed hl ((ok_bind _ hok).trans hpush)
  · have hok : sensitive s.begin = .ok () := sensitive_ok fun _ => hi
    have hpop := pop_v86 (s := s.begin) hv (accesses_begin.2 h)
    have hflags := popfFlags_v86 (s := s.begin) hv (s.begin.mem.readAll pas)
    unfold exec
    refine run_completed hl ((ok_bind _ hok).trans ((ok_bind _ hpop).trans ?_))
    dsimp only
    rw [hflags]
    rfl

/-! INT n. -/

theorem execIntN_eq_softInterrupt {s : State} (hl : s.pfx.lock = false) (hi : s.vm = true → s.iopl = 3) (n : Byte) :
    execIntN n s = softInterrupt s n := by
  rw [execIntN, intN_check hl, sensitive_ok hi]

/-- Settles O21: the gate's DPL decides, and an open gate enters the handler by `deliver_of_gateOpen`. -/
theorem intNResult : Obligations.IntNResult := by
  intro s n g hl hv hi hg ev
  have hexec : exec (.intN n) s = softInterrupt s n := execIntN_eq_softInterrupt hl (fun _ => hi) n
  rw [hexec]
  simp only [softInterrupt, mode_v86 hv, hg]
  refine ⟨fun hd => if_pos hd, fun hd => ?_⟩
  rw [if_neg (by rw [hd]; decide)]
  exact ⟨rfl, fun code ss0 stack esp0 u esp h => deliver_of_gateOpen hv h⟩

/-! IRET in V86 mode. -/

/-- A meaning runs from the state in which the shadows have ended. -/
theorem runJump_congr {s : State} {body body' : State → M State} (h : body s.begin = body' s.begin) :
    runJump s body = runJump s body' := by
  simp only [runJump, h]

theorem exec_iret_v86 {s : State} (hv : s.vm = true) (hi : s.iopl = 3) : exec .iret s = runJump s iret8086 := by
  unfold exec
  refine runJump_congr ((ok_bind _ (sensitive_ok (s := s.begin) fun _ => hi)).trans ?_)
  rw [mode_v86 (show s.begin.vm = true from hv)]

theorem exec_iret_prot {s : State} (hm : s.mode = .prot) : exec .iret s = runJump s iretProtected := by
  have hv : s.begin.vm = false := (mode_prot_iff.1 hm).1
  have hok : sensitive s.begin = .ok () := sensitive_ok fun h => by simp [hv] at h
  unfold exec
  refine runJump_congr ((ok_bind _ hok).trans ?_)
  rw [show s.begin.mode = .prot from hm]

theorem opBytes_cases (s : State) : s.opBytes = 2 ∨ s.opBytes = 4 := by
  cases h : s.op32 <;> simp [State.opBytes, h]

/-- The end of the last item that IRET reads is the end of all three. -/
theorem inSegment_three_items {s : State} {sp : Word} {n : Nat} (hv : s.vm = true) (hn : n = 2 ∨ n = 4)
    (h : s.inSegment .ss (sp.setWidth 32 + BitVec.ofNat 32 (2 * n)) n = true) :
    s.inSegment .ss (sp.setWidth 32) (3 * n) = true := by
  have hsp := sp.isLt
  simp only [inSegment_v86 hv, decide_eq_true_eq, BitVec.toNat_add, BitVec.toNat_setWidth, BitVec.toNat_ofNat] at h ⊢
  rcases hn with rfl | rfl <;> omega

/-- The state that IRET leaves in V86 mode when the items on the stack are `ip`, `cs` and `fl` (R106). -/
def iretLeaves (s : State) (ip cs fl : Dword) : State :=
  { (s.setReg16 .esp (s.reg16 .esp + BitVec.ofNat 16 (3 * s.opBytes))).setSeg .cs (seg8086 (cs.setWidth 16)) with
    eip := ip
    eflags := { Eflags.ofWord fl with
                vm := s.eflags.vm
                iopl := s.eflags.iopl
                rf := if s.op32 then fl.getLsbD 16 else s.eflags.rf
                ac := if s.op32 then fl.getLsbD 18 else s.eflags.ac }
    nmiMasked := false }

section Iret8086

variable {s : State} {p0 p1 p2 : List Nat} (hv : s.vm = true)
include hv

/-- With the frame readable, IRET answers by its EIP alone (R106). -/
theorem iret8086_reads (h0 : Accesses s .read .ss ((s.reg16 .esp).setWidth 32) s.opBytes p0)
    (h1 : Accesses s .read .ss ((s.reg16 .esp).setWidth 32 + BitVec.ofNat 32 s.opBytes) s.opBytes p1)
    (h2 : Accesses s .read .ss ((s.reg16 .esp).setWidth 32 + BitVec.ofNat 32 (2 * s.opBytes)) s.opBytes p2) :
    iret8086 s =
      if 0xFFFF < (s.mem.readAll p0).toNat then raising excGP0
      else .ok (iretLeaves s (s.mem.readAll p0) (s.mem.readAll p1) (s.mem.readAll p2)) := by
  have hall : checkOff s .ss ((s.reg16 .esp).setWidth 32) (3 * s.opBytes) = .ok () :=
    checkOff_eq_ok.2 (inSegment_three_items hv (opBytes_cases s) h2.1)
  have hsp := stackPtr_add_low hv (3 * s.opBytes)
  rw [stackPtr_v86 hv] at hsp
  rw [iret8086, stackPtr_v86 hv, ok_bind _ hall, ok_bind _ (memRead_eq_ok.2 ⟨p0, h0, rfl⟩),
    ok_bind _ (memRead_eq_ok.2 ⟨p1, h1, rfl⟩), ok_bind _ (memRead_eq_ok.2 ⟨p2, h2, rfl⟩), setStackPtr_v86 hv, hsp,
    load_v86 hv]
  rfl

/-- The offsets are checked before any byte is translated (R225). -/
theorem iret8086_past_end (h : 0x10000 < (s.reg16 .esp).toNat + 3 * s.opBytes) :
    iret8086 s = .error (.exc (offsetExc .ss)) := by
  refine error_bind _ (checkOff_error ?_)
  rw [stackPtr_v86 hv, inSegment_v86 hv, BitVec.toNat_setWidth_of_le (by decide)]
  exact decide_eq_false (by omega)

end Iret8086

/-- Settles O22: what `iret8086` answers, as the answer of the instruction. -/
theorem iretInV86Result : Obligations.IretInV86Result := by
  refine ⟨fun s p0 p1 p2 hl hv hi h0 h1 h2 => ?_, fun s hl hv hi h => ?_⟩
  · have hret := iret8086_reads (s := s.begin) hv (accesses_begin.2 h0) (accesses_begin.2 h1) (accesses_begin.2 h2)
    rw [exec_iret_v86 hv hi]
    by_cases hip : 0xFFFF < (s.mem.readAll p0).toNat
    · rw [if_pos hip]
      exact runJump_stops hl (hret.trans (if_pos hip))
    · rw [if_neg hip]
      exact runJump_jumped hl (hret.trans (if_neg hip))
  · rw [exec_iret_v86 hv hi, runJump_stops hl (iret8086_past_end (s := s.begin) hv h), stopped_offsetExc, if_pos rfl]

/-! IRET in protected mode. -/

theorem linRead_begin (s : State) (la : Dword) (n : Nat) (p : Priv) : linRead s.begin la n p = linRead s la n p := by
  rw [linRead, linRead, physAddrs_congr .read p la n (begin_ctrl s) (begin_pageMap s), begin_mem]

/-- A shorter access at the same offset is inside the segment too. -/
theorem inSegment_mono {s : State} {r : SReg} {off : Dword} {m n : Nat} (hmn : m ≤ n) (h : s.inSegment r off n = true) :
    s.inSegment r off m = true := by
  unfold State.inSegment at h ⊢
  split at h
  · simp only [Bool.and_eq_true, decide_eq_true_eq] at h ⊢
    obtain ⟨husable, hend⟩ := h
    exact ⟨husable, by omega⟩
  · simp only [decide_eq_true_eq] at h ⊢
    omega

/-- The entry into V86 mode from a frame whose nine doublewords are `w` (R107). -/
theorem iretToV86_ok {s : State} {w : Nat → Dword} (hin : s.inSegment .ss (s.reg .esp) 36 = true)
    (hw : ∀ k, k < 9 → frameSlot s (4 * k) = .ok (w k)) (hvm : (w 2).getLsbD 17 = true) (hip : (w 0).toNat ≤ 0xFFFF) :
    iretToV86 s =
      .ok { s with
            regs := s.regs.set .esp (w 3)
            segs := { cs := seg8086 ((w 1).setWidth 16), ss := seg8086 ((w 4).setWidth 16)
                      es := seg8086 ((w 5).setWidth 16), ds := seg8086 ((w 6).setWidth 16)
                      fs := seg8086 ((w 7).setWidth 16), gs := seg8086 ((w 8).setWidth 16) }
            eip := w 0
            eflags := Eflags.ofWord (w 2)
            cpl := 3
            nmiMasked := false } := by
  have h12 : checkOff s .ss (s.reg .esp) 12 = .ok () := checkOff_eq_ok.2 (inSegment_mono (by omega) hin)
  have h36 : checkOff s .ss (s.reg .esp) 36 = .ok () := checkOff_eq_ok.2 hin
  have hvm' : (Eflags.ofWord (w 2)).vm = true := hvm
  rw [iretToV86, ok_bind _ h12, ok_bind _ (hw 0 (by omega)), ok_bind _ (hw 1 (by omega)), ok_bind _ (hw 2 (by omega)),
    if_pos hvm', ok_bind _ h36, ok_bind _ (hw 3 (by omega)), ok_bind _ (hw 4 (by omega)), ok_bind _ (hw 5 (by omega)),
    ok_bind _ (hw 6 (by omega)), ok_bind _ (hw 7 (by omega)), ok_bind _ (hw 8 (by omega)), if_neg (by omega)]

/-- Settles O23: at CPL 0 with NT 0 and 32-bit operand size IRET is the entry into V86 mode. -/
theorem iretEntersV86 : Obligations.IretEntersV86 := by
  intro s w hl hm hc hnt hop hin hw hvm hip
  have hret : iretProtected s.begin = iretToV86 s.begin := by
    have hnt' : s.begin.eflags.nt = false := hnt
    rw [iretProtected, hnt', if_neg Bool.false_ne_true, if_pos ⟨hc, hop⟩]
  have hslots : ∀ k, k < 9 → frameSlot s.begin (4 * k) = .ok (w k) := fun k hk => (linRead_begin ..).trans (hw k hk)
  rw [exec_iret_prot hm]
  exact runJump_jumped hl (hret.trans (iretToV86_ok (s := s.begin) hin hslots hvm hip))

/-- With a readable back link IRET is the task switch to the task that it names (R108). -/
theorem iretTask_ok {s t : State} {link : Dword} (hlim : tssLimit s.tr.is286 ≤ s.tr.limit.toNat)
    (hlink : linRead s s.tr.base 2 .supervisor = .ok link)
    (ht : taskSwitch s (link.setWidth 16) (s.eip + BitVec.ofNat 32 s.ilen) = .ok t) :
    iretTask s = .ok { t with nmiMasked := false } := by
  have hread : insideSwitch (if s.tr.limit.toNat < tssLimit s.tr.is286 then refusing .taskSwitch
      else linRead s s.tr.base 2 .supervisor) = .ok link := by
    rw [insideSwitch_eq_ok, if_neg (by omega), hlink]
  rw [iretTask, ok_bind _ hread, ok_bind _ ht]

/-- A task switch ends the shadows. -/
theorem taskSwitch_begin {s t : State} {sel : Word} {eip : Dword} (h : taskSwitch s sel eip = .ok t) : t.begin = t := by
  obtain ⟨⟨regs, segs, eip', fl, cpl, cr3, ldtr, tr, draws, mem, rfl⟩, -, -⟩ := taskSwitch_ok h
  rfl

/-- Settles O57: IRET with NT = 1 by `iretTask_ok`, delivery by `deliver_of_taskGate`. -/
theorem taskSwitchOccasions : Obligations.TaskSwitchOccasions := by
  refine ⟨fun s t link hl hm hnt hlim hlink ht => ?_, fun s t ev g hv hg hp hk ht => deliver_of_taskGate hv hg hp hk ht⟩
  have hret := iretTask_ok (s := s.begin) hlim ((linRead_begin ..).trans hlink) ht
  have hbegin : { t with nmiMasked := false } = State.begin { t with nmiMasked := false } :=
    congrArg (fun u : State => { u with nmiMasked := false }) (taskSwitch_begin ht).symm
  rw [exec_iret_prot hm]
  exact runJump_jumped hl ((if_pos hnt).trans (hret.trans (congrArg Except.ok hbegin)))

end Sys2Proof.Proofs
end

section
/-! PROOFS. Ports (O24 to O28): where the permission bit of a port stands, and what an I/O instruction does when its ports are open
and when one of them is closed. The permission check comes before every other effect, so each instruction is its check followed
by its transfer. -/

namespace Sys2Proof.Proofs

open Sys2Proof.Machine Sys2Proof.Safety Sys2Proof.Laws

/-! The permission bitmap. -/

/-- A value's lowest-order byte stands below the rest, of which 24 bits count (R55). -/
theorem readAll_cons_toNat (m : Memory) (a : Nat) (as : List Nat) :
    (m.readAll (a :: as)).toNat = (m.read a).toNat + 256 * ((m.readAll as).toNat % 2 ^ 24) := by
  have hlow : (m.read a).toNat < 2 ^ 8 := (m.read a).isLt
  have hshift : (m.readAll as).toNat <<< 8 % 2 ^ 32 = ((m.readAll as).toNat % 2 ^ 24) <<< 8 := by
    simp only [Nat.shiftLeft_eq]
    omega
  rw [Memory.readAll, BitVec.toNat_or, BitVec.toNat_shiftLeft, BitVec.toNat_setWidth_of_le (by decide), hshift,
    ← Nat.shiftLeft_add_eq_or_of_lt hlow, Nat.shiftLeft_eq]
  omega

theorem readAll_pair_toNat (m : Memory) (a b : Nat) :
    (m.readAll [a, b]).toNat = (m.read a).toNat + 256 * (m.read b).toNat := by
  have hb := (m.read b).isLt
  have hnil : (m.readAll []).toNat = 0 := rfl
  rw [readAll_cons_toNat, readAll_cons_toNat, hnil]
  omega

theorem readAll_cons_getLsbD (m : Memory) (a : Nat) (as : List Nat) {i : Nat} (hi : i < 8) :
    (m.readAll (a :: as)).getLsbD i = (m.read a).getLsbD i := by
  simp [Memory.readAll, hi, show i < 32 by omega]

theorem linRead_pair_off {s : State} (la : Dword) (p : Priv) (hp : s.pg = false) :
    linRead s la 2 p = .ok (s.mem.readAll [la.toNat, (la + 1).toNat]) :=
  linRead_eq_ok.2 ⟨_, physAddrs_off .read p la 2 hp, by simp [List.range_succ, Nat.mod_eq_of_lt la.isLt]⟩

/-- U24, D25, log 42: a TSS without a map base denies every port. -/
theorem ioBit_no_map {s : State} (h : s.tr.is286 = true ∨ s.tr.limit.toNat < 0x67) (p : Nat) : ioBit s p = .ok true :=
  if_pos h

/-- With a map base, the bit is 1 past the limit, and else is a bit of the pair of bytes that the check reads (R120). -/
theorem ioBit_off {s : State} {p b : Nat} (hp : s.pg = false) (h286 : s.tr.is286 = false) (hlim : 0x67 ≤ s.tr.limit.toNat)
    (hb : b = (s.mem.read (s.tr.base + 0x66).toNat).toNat + 256 * (s.mem.read (s.tr.base + 0x67).toNat).toNat) :
    ioBit s p = .ok
      (if s.tr.limit.toNat < b + p / 8 + 1 then true
        else (s.mem.read (s.tr.base + BitVec.ofNat 32 (b + p / 8)).toNat).getLsbD (p % 8)) := by
  have hmap : ¬ (s.tr.is286 = true ∨ s.tr.limit.toNat < ioMapBaseAt + 1) := by
    simp only [h286, ioMapBaseAt, Bool.false_eq_true, false_or]
    omega
  have hnext : s.tr.base + BitVec.ofNat 32 ioMapBaseAt + 1 = s.tr.base + 0x67 := by
    rw [BitVec.add_assoc]
    rfl
  have hbase : (s.mem.readAll [(s.tr.base + BitVec.ofNat 32 ioMapBaseAt).toNat,
      (s.tr.base + BitVec.ofNat 32 ioMapBaseAt + 1).toNat]).toNat = b := by
    rw [readAll_pair_toNat, hnext, hb]
    rfl
  rw [ioBit, if_neg hmap, ok_bind _ (linRead_pair_off _ _ hp)]
  dsimp only
  rw [hbase]
  split
  · rfl
  · rw [ok_bind _ (linRead_pair_off _ _ hp), readAll_cons_getLsbD _ _ _ (Nat.mod_lt p (by decide))]

/-- Settles O24: with a map base by `ioBit_off`, without one by `ioBit_no_map`. -/
theorem portBitmapLayout : Obligations.PortBitmapLayout :=
  ⟨fun _ _ _ hp h286 hlim hb => ioBit_off hp h286 hlim hb, fun _ p h => ioBit_no_map h p⟩

/-! A transfer as the model makes it and as the statements say it: the value by bits and by arithmetic. -/

theorem lowBytes_eq (n : Nat) (v : Dword) : lowBytes n v = BitVec.ofNat 32 (v.toNat % 2 ^ (8 * n)) := by
  apply BitVec.eq_of_toNat_eq
  simp [lowBytes]

theorem ioValue_eq (s : State) (port : Word) (n : Nat) : s.ioValue port n = portAnswer s port n := lowBytes_eq ..

theorem ioReadDone_eq (s : State) (port : Word) (n : Nat) : s.ioReadDone port n = inputMade s port n := by
  rw [State.ioReadDone, ioValue_eq, inputMade]

theorem ioWrite_eq (s : State) (port : Word) (n : Nat) (v : Dword) : s.ioWrite port n v = outputMade s port n v := by
  rw [State.ioWrite, lowBytes_eq, outputMade]

/-- A port number given in the instruction is below 256 (R121). -/
theorem immediatePort_toNat (port : Byte) : (port.setWidth 16 : Word).toNat = port.toNat :=
  BitVec.toNat_setWidth_of_le (by decide)

/-! A register written before or after the shadows end. -/

theorem begin_setRegW (s : State) (w : Bool) (r : Reg) (v : Dword) : (s.setRegW w r v).begin = s.begin.setRegW w r v := by
  cases w <;> rfl

theorem begin_setStringReg (s : State) (r : Reg) (v : Dword) : (s.setStringReg r v).begin = s.begin.setStringReg r v :=
  begin_setRegW ..

theorem setStringReg_eip (s : State) (r : Reg) (v : Dword) : (s.setStringReg r v).eip = s.eip := setRegW_eip ..

/-! IN and OUT with open ports. -/

section Open

variable {s : State} {port : Word} {n : Nat} (hv : s.vm = true)
include hv

theorem inByte_open (h : PortsOpen s port.toNat 1) :
    inByte s.begin port =
      .ok ((inputMade s port 1).setReg8 .al ((portAnswer s port 1).setWidth 8)).begin := by
  rw [inByte, ok_bind _ (ioCheck_begin_open hv h), ioReadDone_eq, ioValue_eq]
  rfl

theorem inWide_open (h : PortsOpen s port.toNat s.opBytes) :
    inWide s.begin port =
      .ok ((inputMade s port s.opBytes).setRegW s.op32 .eax (portAnswer s port s.opBytes)).begin := by
  have hcheck : ioCheck s.begin port s.begin.opBytes = .ok () := ioCheck_begin_open hv h
  rw [inWide, ok_bind _ hcheck, ioReadDone_eq, ioValue_eq, begin_setRegW]
  rfl

theorem outByte_open (h : PortsOpen s port.toNat 1) :
    outByte s.begin port = .ok (outputMade s port 1 ((s.reg8 .al).setWidth 32)).begin := by
  rw [outByte, ok_bind _ (ioCheck_begin_open hv h), ioWrite_eq]
  rfl

theorem outWide_open (h : PortsOpen s port.toNat s.opBytes) :
    outWide s.begin port = .ok (outputMade s port s.opBytes (s.regW s.op32 .eax)).begin := by
  have hcheck : ioCheck s.begin port s.begin.opBytes = .ok () := ioCheck_begin_open hv h
  rw [outWide, ok_bind _ hcheck, ioWrite_eq]
  rfl

end Open

/-- Settles O25: what `inByte`, `inWide`, `outByte` and `outWide` leave, as the answers of the instructions that are made of
them, the port in the instruction or in DX. -/
theorem portTransferResult : Obligations.PortTransferResult := by
  refine ⟨fun s port hl hv => ?_, fun s port hl hv => ?_⟩ <;> unfold exec <;> rw [← immediatePort_toNat port]
  · exact ⟨fun h => run_completed hl (inByte_open hv h), fun h => run_completed hl (inWide_open hv h),
      fun h => run_completed hl (inByte_open hv h), fun h => run_completed hl (inWide_open hv h)⟩
  · exact ⟨fun h => run_completed hl (outByte_open hv h), fun h => run_completed hl (outWide_open hv h),
      fun h => run_completed hl (outByte_open hv h), fun h => run_completed hl (outWide_open hv h)⟩

/-! An iteration of INS and OUTS. -/

section Iteration

variable {s : State} {n : Nat} {pas : List Nat} (hv : s.vm = true) (hp : PortsOpen s (s.reg16 .edx).toNat n)
include hv hp

theorem insOnce_open (h : Accesses s .write .es (s.stringReg .edi) n pas) :
    insOnce s.begin n =
      .ok ((inputMade (s.storeAt pas (portAnswer s (s.reg16 .edx) n)) (s.reg16 .edx) n).setStringReg .edi
        (if s.eflags.df then s.stringReg .edi - BitVec.ofNat 32 n else s.stringReg .edi + BitVec.ofNat 32 n)).begin := by
  have hcheck : ioCheck s.begin (s.begin.reg16 .edx) n = .ok () := ioCheck_begin_open hv hp
  have hstore : memWrite s.begin .es (s.begin.stringReg .edi) n (s.begin.ioValue (s.begin.reg16 .edx) n) =
      .ok (s.begin.storeAt pas (s.begin.ioValue (s.begin.reg16 .edx) n)) :=
    memWrite_eq_ok.2 ⟨pas, accesses_begin.2 h, rfl⟩
  rw [insOnce, ok_bind _ hcheck, ok_bind _ hstore, ioValue_eq, ioReadDone_eq, begin_setStringReg]
  rfl

theorem outsOnce_open (h : Accesses s .read (s.pfx.seg.getD .ds) (s.stringReg .esi) n pas) :
    outsOnce s.begin n =
      .ok ((outputMade s (s.reg16 .edx) n (s.mem.readAll pas)).setStringReg .esi
        (if s.eflags.df then s.stringReg .esi - BitVec.ofNat 32 n else s.stringReg .esi + BitVec.ofNat 32 n)).begin := by
  have hcheck : ioCheck s.begin (s.begin.reg16 .edx) n = .ok () := ioCheck_begin_open hv hp
  have hload : memRead s.begin (s.begin.pfx.seg.getD .ds) (s.begin.stringReg .esi) n = .ok (s.mem.readAll pas) :=
    memRead_eq_ok.2 ⟨pas, accesses_begin.2 h, rfl⟩
  rw [outsOnce, ok_bind _ hcheck, ok_bind _ hload, ioWrite_eq, begin_setStringReg]
  rfl

end Iteration

/-- What is between two iterations is what the iteration left, with the instruction to go on (R133, log 28). -/
theorem betweenIterations_begin {s u : State} (op : StringIo) (h : u.eip = s.eip) :
    betweenIterations s u.begin op =
      { u with
        ilen := 0, pfx := Pfx.none, intShadow := s.intShadow, ssShadow := s.ssShadow
        iterating := some { op := op, ilen := s.ilen, pfx := s.pfx } } := by
  rw [betweenIterations, ← h]
  rfl

/-- An iteration that is made and goes through leaves EIP and counts CX or ECX down (R133). -/
theorem runString_iterated {s t : State} {op : StringIo} {n : Nat} {once : State → Nat → M State} (hl : s.pfx.lock = false)
    (hrep : s.pfx.rep = none ∨ s.stringReg .ecx ≠ 0) (heip : t.eip = s.eip) (h : once s.begin n = .ok t.begin) :
    runString op s n once = .next (iterated op s t) := by
  rw [runString, ok_bind _ (lockGuard_none false hl), ok_bind _ h, ok_bind _ h, iterated]
  by_cases hnone : s.pfx.rep = none
  · rw [if_pos hnone, if_pos (Option.isNone_iff_eq_none.2 hnone)]
    rfl
  · rw [if_neg hnone, if_neg (mt Option.isNone_iff_eq_none.1 hnone), if_neg (hrep.resolve_left hnone),
      ← begin_setStringReg]
    by_cases hlast : s.stringReg .ecx = 1
    · rw [if_pos hlast, if_pos hlast, hlast]
      rfl
    · rw [if_neg hlast, if_neg hlast, betweenIterations_begin op ((setStringReg_eip ..).trans heip)]
      rfl

/-- Settles O26: `insOnce_open` and `outsOnce_open` are the iteration, and `runString_iterated` goes on from it. -/
theorem stringIoResult : Obligations.StringIoResult := by
  refine ⟨fun i op s n pas hi hl hv hrep hp h => ?_, fun i op s n pas hi hl hv hrep hp h => ?_⟩ <;> unfold exec
  · rcases hi with ⟨rfl, rfl, rfl⟩ | ⟨rfl, rfl, rfl⟩ <;>
      exact runString_iterated hl hrep (setStringReg_eip ..) (insOnce_open hv hp h)
  · rcases hi with ⟨rfl, rfl, rfl⟩ | ⟨rfl, rfl, rfl⟩ <;>
      exact runString_iterated hl hrep (setStringReg_eip ..) (outsOnce_open hv hp h)

/-! Count 0. -/

theorem ioCheck_open {s : State} {port : Word} {n : Nat} (hv : s.vm = true) (h : PortsOpen s port.toNat n) :
    ioCheck s port n = .ok () := by
  simp only [ioCheck, mode_v86 hv, ioCheckFrom_open h]

theorem ioCheck_closed {s : State} {port : Word} {n : Nat} (hv : s.vm = true) (h : PortsClosed s port.toNat n) :
    ioCheck s port n = .error (.exc excGP0) := by
  simp only [ioCheck, mode_v86 hv, ioCheckFrom_closed h]

theorem zeroCountCheck_open {s : State} {n : Nat} (hv : s.vm = true) (h : PortsOpen s (s.reg16 .edx).toNat n) :
    zeroCountCheck s n = .ok () := by
  rw [zeroCountCheck, ioCheck_open hv h, ite_self]

theorem zeroCountCheck_closed {s : State} {n : Nat} (hv : s.vm = true) (h : PortsClosed s (s.reg16 .edx).toNat n) :
    zeroCountCheck s n = .ok () ∨ zeroCountCheck s n = .error (.exc excGP0) := by
  rw [zeroCountCheck, ioCheck_closed hv h]
  split
  · exact .inr rfl
  · exact .inl rfl

section CountZero

variable {s : State} {op : StringIo} {n : Nat} {once : State → Nat → M State} (hl : s.pfx.lock = false)
  (hrep : s.pfx.rep ≠ none) (hcx : s.stringReg .ecx = 0)
include hl hrep hcx

/-- With count 0 no iteration is made: the instruction is the permission check, or nothing (R133, U23). -/
theorem runString_zero :
    runString op s n once =
      finish s (zeroCountCheck s n >>= fun _ => .ok (retire s { s.begin with draws := s.draws + 1 })) := by
  rw [runString, ok_bind _ (lockGuard_none false hl), if_neg (mt Option.isNone_iff_eq_none.1 hrep), if_pos hcx]

theorem runString_zero_completed (h : zeroCountCheck s n = .ok ()) :
    runString op s n once = .next (completed s { s with draws := s.draws + 1 }) := by
  rw [runString_zero hl hrep hcx, ok_bind _ h]
  rfl

theorem runString_zero_faults (h : zeroCountCheck s n = .error (.exc excGP0)) :
    runString op s n once = faults s 13 (some 0) := by
  rw [runString_zero hl hrep hcx, error_bind _ h]
  rfl

/-- What the permission check of a count of 0 decides. -/
theorem runString_zero_result (hv : s.vm = true) :
    (PortsOpen s (s.reg16 .edx).toNat n →
      runString op s n once = .next (completed s { s with draws := s.draws + 1 })) ∧
    (PortsClosed s (s.reg16 .edx).toNat n →
      runString op s n once = .next (completed s { s with draws := s.draws + 1 }) ∨
        runString op s n once = faults s 13 (some 0)) :=
  ⟨fun h => runString_zero_completed hl hrep hcx (zeroCountCheck_open hv h), fun h =>
    (zeroCountCheck_closed hv h).imp (runString_zero_completed hl hrep hcx) (runString_zero_faults hl hrep hcx)⟩

end CountZero

/-- Settles O27: all four instructions are `runString`, and none of its iterations is made. -/
theorem repeatCountZero : Obligations.RepeatCountZero := by
  intro i s n hi hl hv hrep hcx
  unfold exec
  rcases hi with ⟨rfl | rfl, rfl⟩ | ⟨rfl | rfl, rfl⟩ <;> exact runString_zero_result hl hrep hcx hv

/-! Closed ports. -/

theorem portsClosed_begin {s : State} {p n : Nat} : PortsClosed s.begin p n ↔ PortsClosed s p n := by
  simp only [PortsClosed, PortsOpen, ioBit_begin]

/-- Settles O28: the check is the first thing that each of the twelve does, for an iteration of INS and OUTS too. -/
theorem closedPortFaults : Obligations.ClosedPortFaults := by
  intro i s p n hl hv hrep hi hclosed
  have hcheck {port : Word} (hport : p = port.toNat) : ioCheck s.begin port n = .error (.exc excGP0) :=
    ioCheck_closed hv (portsClosed_begin.2 (hport ▸ hclosed))
  have hguard := lockGuard_none false hl
  rw [← stopped_gp0]
  unfold exec
  simp only [List.mem_cons, List.not_mem_nil, or_false] at hi
  rcases hi with ⟨b, hp, hi⟩ | ⟨hp, hi⟩
  · have himm := hcheck (hp.trans (immediatePort_toNat b).symm)
    rcases hi with ⟨rfl | rfl, rfl⟩ | ⟨rfl | rfl, rfl⟩ <;> exact run_stops hl (error_bind _ himm)
  · have hdx := hcheck hp
    rcases hi with ⟨rfl | rfl | rfl | rfl, rfl⟩ | ⟨rfl | rfl | rfl | rfl, rfl⟩
    case inr.inl.inl | inr.inl.inr.inl | inr.inr.inl | inr.inr.inr.inl => exact run_stops hl (error_bind _ hdx)
    case inr.inl.inr.inr.inl | inr.inl.inr.inr.inr | inr.inr.inr.inr.inl | inr.inr.inr.inr.inr =>
      exact runString_error hguard (hrep (by simp)) (error_bind _ hdx)

end Sys2Proof.Proofs
end

section
/-! PROOFS. The privileged instructions (O29 to O31, O33): #GP(0) in V86 mode, the effects of their rules where they may execute.
What any instruction executed in V86 mode can do (O34): it leaves everything that is not the program's own, or an event was
delivered. -/

namespace Sys2Proof.Proofs

open Sys2Proof.Machine Sys2Proof.Safety Sys2Proof.Laws

/-! What an instruction in V86 mode leaves alone. -/

/-- The part of the state that is not a V86 program's own. A reset machine fills the rest: registers, flags, memory, the mask of NMI
(which IRET ends, R106), the shadows, a pending trap, and the model's own records. -/
def systemPart (s : State) : State :=
  { State.reset with
    cpl := s.cpl, ctrl := s.ctrl, dbg := s.dbg, tst := s.tst, gdtr := s.gdtr, idtr := s.idtr, ldtr := s.ldtr, tr := s.tr
    nmiPending := s.nmiPending, fpPending := s.fpPending, irqs := s.irqs, extEvents := s.extEvents, halted := s.halted
    pageMap := s.pageMap, descriptors := s.descriptors }

/-- From `s` to `t` only a V86 program's own part of the state changes, and not VM or IOPL (R21, R22). -/
structure OwnEffect (s t : State) : Prop where
  system : systemPart t = systemPart s
  vm : t.vm = s.vm
  iopl : t.iopl = s.iopl

theorem OwnEffect.refl (s : State) : OwnEffect s s := ⟨rfl, rfl, rfl⟩

theorem OwnEffect.trans {s t u : State} (h : OwnEffect s t) (h' : OwnEffect t u) : OwnEffect s u :=
  ⟨h'.system.trans h.system, h'.vm.trans h.vm, h'.iopl.trans h.iopl⟩

/-- EFLAGS as a whole is the program's own, VM and IOPL apart. -/
theorem OwnEffect.withFlags {s t : State} {f : Eflags} (h : OwnEffect s t) (hvm : f.vm = s.vm) (hiopl : f.iopl = s.iopl) :
    OwnEffect s { t with eflags := f } :=
  ⟨h.system, hvm, hiopl⟩

theorem OwnEffect.retireAt {s t u : State} {eip : Dword} (h : OwnEffect s t) : OwnEffect s (retireAt u t eip) :=
  ⟨h.system, h.vm, h.iopl⟩

theorem ownEffect_setRegW (s : State) (w : Bool) (r : Reg) (v : Dword) : OwnEffect s (s.setRegW w r v) := by
  cases w <;> exact ⟨rfl, rfl, rfl⟩

theorem ownEffect_setStackPtr (s : State) (v : Dword) : OwnEffect s (s.setStackPtr v) := ownEffect_setRegW ..

theorem ownEffect_setStringReg (s : State) (r : Reg) (v : Dword) : OwnEffect s (s.setStringReg r v) := ownEffect_setRegW ..

theorem ownEffect_advanceIndex (s : State) (r : Reg) (n : Nat) : OwnEffect s (s.advanceIndex r n) := ownEffect_setRegW ..

theorem shiftFlags_iopl {n : Nat} (op : ShiftOp) (f : Eflags) (d : BitVec n) (c k : Nat) :
    (shiftFlags op f d c k).iopl = f.iopl := by
  cases op <;> rfl

theorem OwnEffect.shifted {n : Nat} {s t : State} (op : ShiftOp) (d : BitVec n) (c : Nat) (h : OwnEffect s t) :
    OwnEffect s (s.shifted t op d c) :=
  ⟨h.system, shiftFlags_vm .., shiftFlags_iopl ..⟩

theorem memWrite_ownEffect {s t : State} {r : SReg} {off v : Dword} {n : Nat} (h : memWrite s r off n v = .ok t) :
    OwnEffect s t := by
  obtain ⟨pas, -, rfl⟩ := memWrite_eq_ok.1 h
  exact ⟨rfl, rfl, rfl⟩

theorem push_ownEffect {s t : State} {n : Nat} {v : Dword} (h : push s n v = .ok t) : OwnEffect s t := by
  obtain ⟨u, hu, h⟩ := bind_eq_ok.1 h
  cases h
  exact (memWrite_ownEffect hu).trans (ownEffect_setStackPtr ..)

theorem writeRm8_ownEffect {s t : State} {x : Rm Reg8} {v : Byte} (h : writeRm8 s x v = .ok t) : OwnEffect s t := by
  cases x with
  | reg r => cases h; exact ⟨rfl, rfl, rfl⟩
  | mem m => exact memWrite_ownEffect h

theorem writeRmW_ownEffect {s t : State} {x : Rm Reg} {v : Dword} (h : writeRmW s x v = .ok t) : OwnEffect s t := by
  cases x with
  | reg r => cases h; exact ownEffect_setRegW ..
  | mem m => exact memWrite_ownEffect h

theorem shift8_ownEffect {s t : State} {op : ShiftOp} {dst : Rm Reg8} {count : Byte}
    (h : shift8 op dst count s = .ok t) : OwnEffect s t := by
  obtain ⟨d, -, h⟩ := bind_eq_ok.1 h
  split at h
  · cases h; exact .refl s
  · obtain ⟨u, hu, h⟩ := bind_eq_ok.1 h
    cases h
    exact (writeRm8_ownEffect hu).shifted ..

theorem shiftW_ownEffect {s t : State} {op : ShiftOp} {dst : Rm Reg} {count : Byte} (h : shiftW op dst count s = .ok t) :
    OwnEffect s t := by
  obtain ⟨d, -, h⟩ := bind_eq_ok.1 h
  split at h
  · cases h; exact .refl s
  · split at h <;>
    · obtain ⟨u, hu, h⟩ := bind_eq_ok.1 h
      cases h
      exact (writeRmW_ownEffect hu).shifted ..

theorem insOnce_ownEffect {s t : State} {n : Nat} (h : insOnce s n = .ok t) : OwnEffect s t := by
  simp only [insOnce, bind_eq_ok] at h
  obtain ⟨-, -, u, hu, h⟩ := h
  cases h
  have hread : OwnEffect u (u.ioReadDone (s.reg16 .edx) n) := ⟨rfl, rfl, rfl⟩
  exact (memWrite_ownEffect hu).trans (hread.trans (ownEffect_advanceIndex ..))

theorem outsOnce_ownEffect {s t : State} {n : Nat} (h : outsOnce s n = .ok t) : OwnEffect s t := by
  simp only [outsOnce, bind_eq_ok] at h
  obtain ⟨-, -, v, -, h⟩ := h
  cases h
  have hwrite : OwnEffect s (s.ioWrite (s.reg16 .edx) n v) := ⟨rfl, rfl, rfl⟩
  exact hwrite.trans (ownEffect_advanceIndex ..)

/-- IRET in V86 mode loads neither VM nor IOPL (R106). -/
theorem iret8086_ownEffect {s t : State} (hv : s.vm = true) (h : iret8086 s = .ok t) : OwnEffect s t := by
  simp only [iret8086, bind_eq_ok] at h
  obtain ⟨-, -, ip, -, cs, -, fl, -, h⟩ := h
  split at h
  · cases h
  · cases h
    have hsp := ownEffect_setStackPtr s (s.stackPtr + BitVec.ofNat 32 (3 * s.opBytes))
    rw [load_v86 hv]
    exact ⟨hsp.system, rfl, rfl⟩

/-! What an instruction in V86 mode answers. -/

/-- An event is delivered from a state that differs from `s` in CR2 at most. -/
def Delivers (s t : State) : Prop := ∃ cr2 ev, deliver { s with ctrl := { s.ctrl with cr2 := cr2 } } ev = .next t

theorem delivers_of_deliver {s t : State} {ev : Event} (h : deliver s ev = .next t) : Delivers s t := ⟨s.ctrl.cr2, ev, h⟩

theorem delivers_of_stopped {s t : State} {e : Stop} (h : stopped s e = .next t) : Delivers s t := by
  cases e with
  | exc e => exact raise_next h
  | refuse r => cases h

/-- What an instruction executed in V86 mode can do. -/
def OwnOrDelivers (s t : State) : Prop := OwnEffect s t ∨ Delivers s t

theorem run_own {s t : State} {l : Bool} {body : State → M State} (hb : ∀ u, body s.begin = .ok u → OwnEffect s.begin u)
    (h : run s l body = .next t) : OwnOrDelivers s t := by
  have hbegin : OwnEffect s s.begin := ⟨rfl, rfl, rfl⟩
  rcases run_next h with ⟨u, hu, rfl⟩ | ⟨e, he⟩
  · exact .inl (hbegin.trans (hb u hu).retireAt)
  · exact .inr (raise_next he)

/-- In V86 mode a privileged instruction has no effects (R140). -/
theorem run_privileged_own {s t : State} {body : State → M State} (hv : s.vm = true)
    (h : run s false (fun s => do privileged s; body s) = .next t) : OwnOrDelivers s t := by
  refine run_own (fun u hu => ?_) h
  have hgp := error_bind (fun _ => body s.begin) (privileged_v86 (s := s.begin) hv)
  cases hgp.symm.trans hu

theorem runString_own {s t : State} {op : StringIo} {n : Nat} {once : State → Nat → M State}
    (honce : ∀ u, once s.begin n = .ok u → OwnEffect s.begin u) (h : runString op s n once = .next t) :
    OwnOrDelivers s t := by
  have hbegin : OwnEffect s s.begin := ⟨rfl, rfl, rfl⟩
  rcases finish_next h with hx | ⟨e, he⟩
  case inr => exact .inr (delivers_of_stopped he)
  refine .inl (hbegin.trans ?_)
  obtain ⟨-, -, hx⟩ := bind_eq_ok.1 hx
  split at hx
  · obtain ⟨u, hu, hx⟩ := bind_eq_ok.1 hx
    cases hx
    exact (honce u hu).retireAt
  · split at hx
    · obtain ⟨-, -, hx⟩ := bind_eq_ok.1 hx
      cases hx
      exact ⟨rfl, rfl, rfl⟩
    · obtain ⟨u, hu, hx⟩ := bind_eq_ok.1 hx
      have hown := (honce u hu).trans (ownEffect_setStringReg u .ecx (s.stringReg .ecx - 1))
      dsimp only at hx
      split at hx <;> cases hx
      · exact hown.retireAt
      · exact ⟨hown.system, hown.vm, hown.iopl⟩

theorem popfFlags_iopl {s : State} (hv : s.vm = true) (image : Dword) : (popfFlags s image).iopl = s.iopl := by
  rw [popfFlags_v86 hv]
  rfl

theorem execPopf_own {s t : State} (hv : s.vm = true) (h : execPopf s = .next t) : OwnOrDelivers s t := by
  refine run_own (fun u hu => ?_) h
  simp only [bind_eq_ok] at hu
  obtain ⟨-, -, ⟨v, w⟩, hw, hu⟩ := hu
  cases hu
  obtain ⟨pas, -, -, rfl⟩ := pop_eq_ok.1 hw
  exact (ownEffect_setStackPtr ..).withFlags (popfFlags_vm ..) (popfFlags_iopl hv v)

theorem execIret_own {s t : State} (hv : s.vm = true) (h : execIret s = .next t) : OwnOrDelivers s t := by
  rcases runJump_next h with ⟨u, hu, rfl⟩ | ⟨e, he⟩
  · obtain ⟨-, -, hu⟩ := bind_eq_ok.1 hu
    rw [mode_v86 (show s.begin.vm = true from hv)] at hu
    have hown : OwnEffect s.begin u := iret8086_ownEffect hv hu
    exact .inl ⟨hown.system, hown.vm, hown.iopl⟩
  · exact .inr (raise_next he)

theorem execIntN_delivers {s t : State} {n : Byte} (h : execIntN n s = .next t) : Delivers s t := by
  unfold execIntN at h
  split at h
  case h_2 => exact delivers_of_stopped h
  unfold softInterrupt at h
  dsimp only at h
  split at h
  · split at h
    · exact delivers_of_stopped h
    · split at h
      · exact raise_next h
      · exact delivers_of_deliver h
  · exact delivers_of_deliver h

theorem execMovSregRm_own {s t : State} {sreg : BitVec 3} {src : Rm Reg} (h : execMovSregRm sreg src s = .next t) :
    OwnOrDelivers s t := by
  refine run_own (fun u hu => ?_) h
  split at hu
  · cases hu
  · cases hu
  · simp only [bind_eq_ok] at hu
    obtain ⟨v, -, w, hw, hu⟩ := hu
    obtain ⟨g, rfl, -⟩ := loadSeg_eq_ok hw
    split at hu <;> cases hu <;> exact ⟨rfl, rfl, rfl⟩

theorem execMovRmSreg_own {s t : State} {dst : Rm Reg} {sreg : BitVec 3} (h : execMovRmSreg dst sreg s = .next t) :
    OwnOrDelivers s t := by
  refine run_own (fun u hu => ?_) h
  split at hu
  · cases hu
  · split at hu
    · exact memWrite_ownEffect hu
    · split at hu <;> cases hu <;> exact ⟨rfl, rfl, rfl⟩

/-- What any instruction executed in V86 mode can do: only IRET, POPF, INT n and the privileged ones need that it is V86 mode. -/
theorem exec_own_or_delivers {i : Instr} {s t : State} (hv : s.vm = true) (h : exec i s = .next t) : OwnOrDelivers s t := by
  unfold exec at h
  cases i with
  | cli | sti | inAlImm | inAlDx | outImmAl | outDxAl | outImmAx | outDxAx =>
    refine run_own (fun u hu => ?_) h
    obtain ⟨-, -, hu⟩ := bind_eq_ok.1 hu
    cases hu
    exact ⟨rfl, rfl, rfl⟩
  | inAxImm | inAxDx =>
    refine run_own (fun u hu => ?_) h
    obtain ⟨-, -, hu⟩ := bind_eq_ok.1 hu
    cases hu
    have hread (n : Nat) (port : Word) : OwnEffect s.begin (s.begin.ioReadDone port n) := ⟨rfl, rfl, rfl⟩
    exact (hread ..).trans (ownEffect_setRegW ..)
  | pushf =>
    refine run_own (fun u hu => ?_) h
    obtain ⟨-, -, hu⟩ := bind_eq_ok.1 hu
    exact push_ownEffect hu
  | popf => exact execPopf_own hv h
  | intN => exact .inr (execIntN_delivers h)
  | iret => exact execIret_own hv h
  | insb | insw => exact runString_own (fun _ hu => insOnce_ownEffect hu) h
  | outsb | outsw => exact runString_own (fun _ hu => outsOnce_ownEffect hu) h
  | lidt | lgdt | lmsw | movFromCr | movToCr | clts | hlt | invd | wbinvd | invlpg | movFromDr | movToDr | movFromTr
  | movToTr => exact run_privileged_own hv h
  | push => exact run_own (fun _ hu => push_ownEffect hu) h
  | movRRm =>
    refine run_own (fun u hu => ?_) h
    obtain ⟨v, -, hu⟩ := bind_eq_ok.1 hu
    cases hu
    exact ownEffect_setRegW ..
  | movRmR => exact run_own (fun _ hu => writeRmW_ownEffect hu) h
  | xchg =>
    refine run_own (fun u hu => ?_) h
    simp only [bind_eq_ok] at hu
    obtain ⟨v, -, w, hw, hu⟩ := hu
    cases hu
    exact (writeRmW_ownEffect hw).trans (ownEffect_setRegW ..)
  | movSregRm => exact execMovSregRm_own h
  | movRmSreg => exact execMovRmSreg_own h
  | div8 | idiv8 =>
    refine run_own (fun u hu => ?_) h
    simp only [bind_eq_ok] at hu
    obtain ⟨d, -, ⟨q, r⟩, -, hu⟩ := hu
    cases hu
    exact ⟨rfl, rfl, rfl⟩
  | divW | idivW =>
    refine run_own (fun u hu => ?_) h
    simp only [bind_eq_ok] at hu
    obtain ⟨d, -, ⟨q, r⟩, -, hu⟩ := hu
    cases hu
    exact ((ownEffect_setRegW ..).trans (ownEffect_setRegW ..)).trans ⟨rfl, rfl, rfl⟩
  | rol8One | rol8Cl | rol8Imm | ror8One | ror8Cl | ror8Imm | rcl8One | rcl8Cl | rcl8Imm | rcr8One | rcr8Cl | rcr8Imm
  | shl8One | shl8Cl | shl8Imm | shr8One | shr8Cl | shr8Imm | sar8One | sar8Cl | sar8Imm =>
    exact run_own (fun _ hu => shift8_ownEffect hu) h
  | rolWOne | rolWCl | rolWImm | rorWOne | rorWCl | rorWImm | rclWOne | rclWCl | rclWImm | rcrWOne | rcrWCl | rcrWImm
  | shlWOne | shlWCl | shlWImm | shrWOne | shrWCl | shrWImm | sarWOne | sarWCl | sarWImm =>
    exact run_own (fun _ hu => shiftW_ownEffect hu) h
  | opSizePfx | addrSizePfx | esPfx | csPfx | ssPfx | dsPfx | fsPfx | gsPfx | lockPfx | repnePfx | repPfx =>
    cases h
    exact .inl ⟨rfl, rfl, rfl⟩

/-! What O34 names, kept by the instruction's own effect and by delivery. -/

/-- What O34 says of a state and the next one. -/
def SystemKept (s t : State) : Prop :=
  t.gdtr = s.gdtr ∧ t.idtr = s.idtr ∧ t.ctrl.cr0 = s.ctrl.cr0 ∧ t.dbg = s.dbg ∧ t.tst = s.tst ∧
    (t.halted = true → s.halted = true) ∧ t.extEvents = s.extEvents ∧ t.irqs = s.irqs ∧ t.nmiPending = s.nmiPending ∧
    t.fpPending = s.fpPending ∧ t.pageMap = s.pageMap ∧ t.descriptors = s.descriptors

theorem systemKept_of_systemPart {s t : State} (h : systemPart t = systemPart s) : SystemKept s t := by
  simp only [systemPart, State.mk.injEq, true_and, and_true] at h
  obtain ⟨-, hctrl, hdbg, htst, hgdtr, hidtr, -, -, hnmi, hfp, hirqs, hext, hhalted, hpage, hdesc⟩ := h
  exact ⟨hgdtr, hidtr, congrArg CtrlRegs.cr0 hctrl, hdbg, htst, hhalted.symm.trans, hext, hirqs, hnmi, hfp, hpage, hdesc⟩

/-- The handler and the task that delivery enters are not halted; CR2, CR3, LDTR and TR apart, delivery leaves the rest. -/
theorem deliver_systemKept {s t : State} {ev : Event} (hv : s.vm = true) (h : deliver s ev = .next t) : SystemKept s t := by
  rcases deliver_next h with ⟨-, ev', g, ⟨c, hh⟩ | ht⟩ | ⟨hm, -⟩
  · obtain ⟨u, ss0, stack, esp0, esp, hp, -, rfl⟩ := enterHandler_ok hh
    obtain ⟨⟨m, w, rfl⟩, -⟩ := pushFrame_ok hp
    exact ⟨rfl, rfl, rfl, rfl, rfl, nofun, rfl, rfl, rfl, rfl, rfl, rfl⟩
  · obtain ⟨u, hu, rfl⟩ := enterTask_ok ht
    obtain ⟨⟨regs, segs, eip, fl, cpl, cr3, ldtr, tr, draws, mem, rfl⟩, -, -⟩ := taskSwitch_ok hu
    exact ⟨rfl, rfl, rfl, rfl, rfl, nofun, rfl, rfl, rfl, rfl, rfl, rfl⟩
  · cases (mode_v86 hv).symm.trans hm

/-- Settles O34: a completed instruction has its own effect only, and delivery starts from a state with another CR2 at most. -/
theorem v86KeepsTablesCr0DebugAndTest : Obligations.V86KeepsTablesCr0DebugAndTest := by
  intro i s t hv h
  rcases exec_own_or_delivers hv h with hown | ⟨cr2, ev, hd⟩
  · exact systemKept_of_systemPart hown.system
  · exact deliver_systemKept (s := { s with ctrl := { s.ctrl with cr2 := cr2 } }) hv hd

/-! The check of privilege. -/

/-- Settles O29: the check comes first in each of the sixteen. -/
theorem privilegedTrapInV86 : Obligations.PrivilegedTrapInV86 := by
  intro i s hi hl hv
  have hgp : privileged s.begin = .error (.exc excGP0) := privileged_v86 hv
  rw [← stopped_gp0]
  unfold exec
  simp only [List.mem_cons, List.not_mem_nil, or_false] at hi
  rcases hi with ⟨m, rfl | rfl | rfl⟩ | ⟨x, rfl⟩ | ⟨n, r, rfl | rfl | rfl | rfl | rfl | rfl⟩ | rfl | rfl | rfl | rfl <;>
    exact run_stops hl (error_bind _ hgp)

/-- Where privileged instructions may execute, the check has no part in what they do. -/
theorem run_privileged {s : State} (hp : MayUsePrivileged s) (body : State → M State) :
    run s false (fun s => do privileged s; body s) = run s false body := by
  have hcheck : (do privileged s.begin; body s.begin) = body s.begin :=
    ok_bind _ (privileged_ok (show MayUsePrivileged s.begin from hp))
  simp only [run, hcheck]

section MayExecute

variable {s : State} (hl : s.pfx.lock = false) (hp : MayUsePrivileged s)
include hl hp

theorem run_privileged_completed {t : State} {body : State → M State} (h : body s.begin = .ok t.begin) :
    run s false (fun s => do privileged s; body s) = .next (completed s t) :=
  (run_privileged hp body).trans (run_completed hl h)

theorem run_privileged_stops {body : State → M State} {e : Stop} (h : body s.begin = .error e) :
    run s false (fun s => do privileged s; body s) = stopped s e :=
  (run_privileged hp body).trans (run_stops hl h)

end MayExecute

/-! LIDT, LGDT and LMSW. -/

/-- The 6-byte operand, read where it lies inside its segment (R141; log 54). -/
theorem readTableReg_begin_ok {s : State} {m : MemRef} {p0 p1 : List Nat}
    (hin : s.inSegment (operandSeg s m) (effAddr s m) 6 = true)
    (h0 : Accesses s .read (operandSeg s m) (effAddr s m) 2 p0)
    (h1 : Accesses s .read (operandSeg s m) (effAddr s m + 2) 4 p1) :
    readTableReg s.begin m = .ok { base := s.mem.readAll p1, limit := (s.mem.readAll p0).setWidth 16 } := by
  have hlimit := memRead_eq_ok.2 ⟨p0, accesses_begin.2 h0, rfl⟩
  have hbase := memRead_eq_ok.2 ⟨p1, accesses_begin.2 h1, rfl⟩
  have hoff : checkOff s.begin (operandSeg s m) (effAddr s m) 6 = .ok () := checkOff_eq_ok.2 hin
  exact (ok_bind _ hoff).trans ((ok_bind _ hlimit).trans (ok_bind _ hbase))

theorem readTableReg_begin_error {s : State} {m : MemRef}
    (h : s.inSegment (operandSeg s m) (effAddr s m) 6 = false) :
    readTableReg s.begin m = .error (.exc (offsetExc (operandSeg s m))) :=
  error_bind _ (checkOff_error h)

/-- The low four bits replaced, as the model joins them and as the statement masks them. -/
theorem lowNibble_replaced (c : Dword) (v : Word) :
    c.extractLsb' 4 28 ++ v.extractLsb' 0 4 = (c &&& 0xFFFFFFF0) ||| (v.setWidth 32 &&& 0xF) := by
  refine BitVec.eq_of_getLsbD_eq fun i hi => ?_
  rw [BitVec.getLsbD_append]
  interval_cases i <;> simp

/-- Settles O30: the check passes, and what is left is the operand. -/
theorem systemLoadsComplete : Obligations.SystemLoadsComplete := by
  intro s hl hp
  unfold exec
  refine ⟨fun m p0 p1 hin h0 h1 => ?_, fun m hout => ?_, fun x v hx => ?_⟩
  · have hread := readTableReg_begin_ok hin h0 h1
    exact ⟨run_privileged_completed hl hp (ok_bind _ hread), run_privileged_completed hl hp (ok_bind _ hread)⟩
  · have hread := readTableReg_begin_error hout
    rw [← stopped_offsetExc]
    exact ⟨run_privileged_stops hl hp (error_bind _ hread), run_privileged_stops hl hp (error_bind _ hread)⟩
  · have hread : readRm16 s.begin x = .ok v := readRm16_eq_ok.2 (readsWord_begin.2 hx)
    rw [← lowNibble_replaced]
    exact run_privileged_completed hl hp (ok_bind _ hread)

/-! The moves of control, debug and test registers. -/

section Existing

variable {s : State} (hl : s.pfx.lock = false) (hp : MayUsePrivileged s) {α : Type} {x : State → Option α}
  {k : State → α → M State}
include hl hp

/-- A number that names no register (R77; log 35). -/
theorem run_existing_none (hx : x s.begin = none) :
    run s false (fun s => do privileged s; let a ← existing (x s); k s a) = faults s 6 none := by
  refine run_privileged_stops (e := .exc excUD) hl hp ?_
  exact error_bind _ (congrArg existing hx)

theorem run_existing_completed {a : α} {t : State} (hx : x s.begin = some a) (hk : k s.begin a = .ok t.begin) :
    run s false (fun s => do privileged s; let a ← existing (x s); k s a) = .next (completed s t) := by
  refine run_privileged_completed hl hp ?_
  exact (ok_bind _ (congrArg existing hx)).trans hk

theorem run_existing_stops {a : α} {e : Stop} (hx : x s.begin = some a) (hk : k s.begin a = .error e) :
    run s false (fun s => do privileged s; let a ← existing (x s); k s a) = stopped s e := by
  refine run_privileged_stops hl hp ?_
  exact (ok_bind _ (congrArg existing hx)).trans hk

end Existing

theorem checkCr0_error {n : BitVec 3} {v : Dword} (h : n = 0 ∧ v.getLsbD 31 = true ∧ v.getLsbD 0 = false) :
    checkCr0 n v = .error (.exc excGP0) :=
  if_pos (by simpa using h)

theorem checkCr0_ok {n : BitVec 3} {v : Dword} (h : ¬ (n = 0 ∧ v.getLsbD 31 = true ∧ v.getLsbD 0 = false)) :
    checkCr0 n v = .ok () :=
  if_neg (by simpa using h)

/-- Settles O31: the number names a register or raises #UD; a move to CR0 is then checked (log 35), the others complete. -/
theorem specialRegisterMovesComplete : Obligations.SpecialRegisterMovesComplete := by
  intro n r s hl hp
  dsimp only [exec, execMovFromCr, execMovToCr, execMovFromDr, execMovToDr, execMovFromTr, execMovToTr]
  refine ⟨?fromCr, ?toCr, ?fromDr, ?toDr, ?fromTr, ?toTr⟩
  case toCr =>
    split
    · next hc =>
      split
      · next hbad =>
        refine run_existing_stops (e := .exc excGP0) hl hp hc ?_
        exact error_bind _ (checkCr0_error hbad)
      · next hgood =>
        refine run_existing_completed hl hp hc ?_
        exact ok_bind _ (checkCr0_ok hgood)
    · next hc => exact run_existing_none hl hp hc
  case fromCr | fromDr | toDr | fromTr | toTr =>
    split
    · next hx => exact run_existing_completed hl hp hx rfl
    · next hx => exact run_existing_none hl hp hx

/-! CLTS, HLT, INVD, WBINVD and INVLPG. -/

/-- Settles O33: each passes the check and has its one effect, or none. -/
theorem systemControlCompletes : Obligations.SystemControlCompletes := by
  intro m s hl hp
  unfold exec
  exact ⟨run_privileged_completed hl hp rfl, run_privileged_completed hl hp rfl, run_privileged_completed hl hp rfl,
    run_privileged_completed hl hp rfl, run_privileged_completed hl hp rfl⟩

end Sys2Proof.Proofs
end

section
/-! PROOFS. The stack and data-movement instructions (O36 to O40): PUSH, MOV and XCHG with general registers, MOV with segment
registers. Each is what its operands leave, by the rules of the operands, and then the end of an instruction. -/

namespace Sys2Proof.Proofs

open Sys2Proof.Machine Sys2Proof.Safety Sys2Proof.Laws

/-! The operands, with the shadows ended. -/

theorem begin_putWide (s : State) (x : Rm Reg) (pas : List Nat) (v : Dword) :
    (putWide s x pas v).begin = putWide s.begin x pas v := by
  cases x with
  | reg r => exact begin_setRegW ..
  | mem m => rfl

section Operands

variable {s : State} {x : Rm Reg}

theorem readRmW_begin {v : Dword} (h : ReadsWide s x v) : readRmW s.begin x = .ok v :=
  readRmW_eq_ok.2 (readsWide_begin.2 h)

theorem readRm16_begin {v : Word} (h : ReadsWord s x v) : readRm16 s.begin x = .ok v :=
  readRm16_eq_ok.2 (readsWord_begin.2 h)

theorem writeRmW_begin {pas : List Nat} (h : Writes s x s.opBytes pas) (v : Dword) :
    writeRmW s.begin x v = .ok (putWide s x pas v).begin := by
  rw [begin_putWide]
  exact writeRmW_ok (s := s.begin) (writes_begin.2 h)

end Operands

/-! PUSH. -/

/-- An item that begins below offset 0 is placed at the top of the segment and reaches past its end (R160, R46). -/
theorem push_slot_past_end {sp : Word} {n : Nat} (h0 : 0 < sp.toNat) (hlt : sp.toNat < n) :
    0x10000 < ((sp - BitVec.ofNat 16 n).setWidth 32 : Dword).toNat + n := by
  rw [BitVec.toNat_setWidth_of_le (by decide), BitVec.toNat_sub, BitVec.toNat_ofNat]
  omega

/-- Settles O36: `push_v86` stores the value that the register had; a slot past the end of the segment stops the push. -/
theorem pushResult : Obligations.PushResult := by
  intro r s hl hv
  unfold exec
  refine ⟨fun pas h => ?_, fun h0 hlt => ?_⟩
  · have hpush := push_v86 (s := s.begin) hv (s.regW s.op32 r) (accesses_begin.2 h)
    exact run_completed hl hpush
  · have hend := push_slot_past_end h0 hlt
    have hpush := push_begin_error hv (accessAddrs_past_end .write hv hend) (s.regW s.op32 r)
    exact (run_stops hl hpush).trans (stopped_offsetExc s .ss)

/-! MOV and XCHG with general registers. -/

/-- Settles O37: the operand read or written, and nothing else. -/
theorem movResult : Obligations.MovResult := by
  refine ⟨fun r x s v hl hr => ?_, fun x r s pas hl hw => ?_⟩ <;> unfold exec
  · refine run_completed hl ((ok_bind _ (readRmW_begin hr)).trans ?_)
    rw [begin_setRegW]
    rfl
  · exact run_completed hl (writeRmW_begin hw (s.regW s.op32 r))

/-- Before an instruction that LOCK may precede, it is legal where R110 does not make it sensitive to IOPL (R190). -/
theorem lockGuard_lockable {s : State} (h : ¬ (s.vm = true ∧ s.iopl < 3 ∧ Config.lockIoplSensitive = true)) :
    lockGuard s true = .ok () := by
  cases hl : s.pfx.lock with
  | false => exact lockGuard_none true hl
  | true => exact lockGuard_locked true hl h

/-- The source is read before the destination is written, from the registers as they were (R163). -/
theorem exec_xchg_swaps {x : Rm Reg} {r : Reg} {s : State} {v : Dword} {pas : List Nat}
    (hg : lockGuard s x.isMem = .ok ()) (hr : ReadsWide s x v) (hw : Writes s x s.opBytes pas) :
    exec (.xchg x r) s = .next (completed s ((putWide s x pas (s.regW s.op32 r)).setRegW s.op32 r v)) := by
  have hwrite := writeRmW_begin hw (s.regW s.op32 r)
  unfold exec
  refine run_ok (t := ((putWide s x pas (s.regW s.op32 r)).setRegW s.op32 r v).begin) hg ?_
  rw [begin_setRegW]
  exact (ok_bind _ (readRmW_begin hr)).trans (ok_bind _ hwrite)

theorem lockGuard_xchg {x : Rm Reg} {s : State}
    (h : s.pfx.lock = true → x.isMem = true ∧ (s.vm = false ∨ s.iopl = 3)) : lockGuard s x.isMem = .ok () := by
  cases hl : s.pfx.lock with
  | false => exact lockGuard_none _ hl
  | true =>
    obtain ⟨hm, hmay⟩ := h hl
    rw [hm]
    refine lockGuard_lockable fun ⟨hv, hi, _⟩ => ?_
    rcases hmay with hv' | hi'
    · exact absurd hv (by simp [hv'])
    · exact absurd hi (by simp [hi'])

theorem iopl_lt_three {s : State} (h : s.iopl ≠ 3) : s.iopl < 3 :=
  Decidable.byContradiction fun hlt => h (iopl_eq_three hlt)

/-- Settles O38: where LOCK passes its check the operands are swapped, and the reading of R110 decides the check. -/
theorem xchgResult : Obligations.XchgResult := by
  refine ⟨fun x r s v pas hlock hr hw => exec_xchg_swaps (lockGuard_xchg hlock) hr hw, fun m r s hl hv hi => ?_⟩
  split
  · next hc =>
    have hguard := lockGuard_gp0 true hl ⟨hv, iopl_lt_three hi, hc⟩
    rw [← stopped_gp0]
    exact congrArg (finish s) (error_bind _ hguard)
  · next hc =>
    intro v pas hr hw
    exact exec_xchg_swaps (lockGuard_lockable fun ⟨_, _, h⟩ => hc h) hr hw

/-! MOV with segment registers. -/

theorem sreg_ofNum_none (n : BitVec 3) : 6 ≤ n → SReg.ofNum n = none := by decide +revert

theorem exec_movSregRm_invalid {n : BitVec 3} {x : Rm Reg} {s : State} (hl : s.pfx.lock = false) (h : n = 1 ∨ 6 ≤ n) :
    exec (.movSregRm n x) s = faults s 6 none := by
  unfold exec
  refine run_stops (e := .exc excUD) hl ?_
  rcases h with rfl | h6
  · rfl
  · rw [sreg_ofNum_none n h6]
    rfl

/-- Beside the register the load decides the shadows: one of SS sets them, any other leaves them ended (R33, D22). -/
theorem exec_movSregRm_loads {n : BitVec 3} {x : Rm Reg} {s : State} {r : SReg} {v : Word} (hl : s.pfx.lock = false)
    (hv : s.vm = true) (hn : SReg.ofNum n = some r) (hcs : r ≠ .cs) (hx : ReadsWord s x v) :
    exec (.movSregRm n x) s =
      .next { completed s (s.setSeg r (seg8086 v)) with
              intShadow := decide (r = .ss), ssShadow := decide (r = .ss) } := by
  have hmode : s.begin.mode ≠ .prot := by simp [mode_v86 (show s.begin.vm = true from hv)]
  have hread := readRm16_begin hx
  have hload := loadSeg_8086 r v hmode
  unfold exec
  refine run_ok (t := { s.begin.setSeg r (seg8086 v) with intShadow := decide (r = .ss), ssShadow := decide (r = .ss) })
    (lockGuard_none false hl) ?_
  rw [hn]
  cases r with
  | cs => exact absurd rfl hcs
  | es | ss | ds | fs | gs => exact (ok_bind _ hread).trans (ok_bind _ hload)

/-- Settles O39: the number names no loadable register, or the register is loaded by the 8086 rule. -/
theorem loadSegmentRegisterResult : Obligations.LoadSegmentRegisterResult :=
  fun _ _ _ hl hv => ⟨exec_movSregRm_invalid hl, fun _ _ hn hcs hx => exec_movSregRm_loads hl hv hn hcs hx⟩

/-- Settles O40: the number names no register, or the selector is stored in the operand that the form has. -/
theorem storeSegmentRegisterResult : Obligations.StoreSegmentRegisterResult := by
  intro n x s hl
  unfold exec
  refine ⟨fun h6 => ?invalid, fun q hq => ⟨fun m pas hx hw => ?memory, fun d hx ho => ?word, fun d hx ho => ?dword⟩⟩
  case invalid =>
    refine run_stops (e := .exc excUD) hl ?_
    rw [sreg_ofNum_none n h6]
    rfl
  all_goals
    subst hx
    refine run_completed hl ?_
    rw [hq]
  case memory => exact memWrite_eq_ok.2 ⟨pas, accesses_begin.2 hw, rfl⟩
  case word => exact if_neg (Bool.eq_false_iff.1 ho)
  case dword => exact if_pos ho

end Sys2Proof.Proofs
end

section
/-! PROOFS. The divide instructions (O41, O42): the operand is read, the division on unbounded integers either raises #DE or
gives the two numbers that the registers receive, and the arithmetic flags are left undefined. -/

namespace Sys2Proof.Proofs

open Sys2Proof.Machine Sys2Proof.Safety Sys2Proof.Laws

/-! The divisions on unbounded integers, as the rules state their conditions. -/

theorem divUnsigned_eq {n w top : Nat} (htop : top + 1 = 2 ^ n) (D : Nat) (d : BitVec w) :
    divUnsigned n D d.toNat = if d = 0 ∨ top < D / d.toNat then none else some (D / d.toNat, D % d.toNat) := by
  have hzero : d.toNat = 0 ↔ d = 0 := BitVec.toNat_inj (y := 0#w)
  have htop' : 2 ^ n ≤ D / d.toNat ↔ top < D / d.toNat := by omega
  simp only [divUnsigned, hzero, htop', ite_or]

/-- What is left of the dividend is the remainder with its sign (R173). -/
theorem divSigned_eq {n w : Nat} {low top : Int} (hlow : low = -2 ^ (n - 1)) (htop : top + 1 = 2 ^ (n - 1)) (D : Int)
    (d : BitVec w) :
    divSigned n D d.toInt =
      if d = 0 ∨ D.tdiv d.toInt < low ∨ top < D.tdiv d.toInt then none
      else some (D.tdiv d.toInt, D.tmod d.toInt) := by
  have hzero : d.toInt = 0 ↔ d = 0 := by
    simpa using BitVec.toInt_inj (x := d) (y := 0#w)
  have hrem : D - D.tdiv d.toInt * d.toInt = D.tmod d.toInt := by rw [Int.tmod_def, Int.mul_comm]
  have hhigh : top + 1 ≤ D.tdiv d.toInt ↔ top < D.tdiv d.toInt := by omega
  simp only [divSigned, hzero, hrem, hlow, ← htop, hhigh, ite_or (d = 0)]

/-! The operands at the operand size. -/

section OperandSize

variable {s : State} (d : Dword)

theorem divUnsigned_word (h : s.op32 = false) :
    divUnsigned s.opBits s.dividend d.toNat =
      divUnsigned 16 ((s.reg16 .edx).toNat * 2 ^ 16 + (s.reg16 .eax).toNat) d.toNat := by
  rw [State.opBits, State.dividend, h, State.dxAx, append_toNat]
  rfl

theorem divUnsigned_dword (h : s.op32 = true) :
    divUnsigned s.opBits s.dividend d.toNat =
      divUnsigned 32 ((s.reg .edx).toNat * 2 ^ 32 + (s.reg .eax).toNat) d.toNat := by
  rw [State.opBits, State.dividend, h, State.edxEax, append_toNat]
  rfl

theorem divSigned_word (h : s.op32 = false) :
    divSigned s.opBits s.signedDividend (signedW s.op32 d) =
      divSigned 16 (s.reg16 .edx ++ s.reg16 .eax).toInt (d.setWidth 16).toInt := by
  rw [State.opBits, State.signedDividend, h]
  rfl

theorem divSigned_dword (h : s.op32 = true) :
    divSigned s.opBits s.signedDividend (signedW s.op32 d) = divSigned 32 (s.reg .edx ++ s.reg .eax).toInt d.toInt := by
  rw [State.opBits, State.signedDividend, h]
  rfl

end OperandSize

/-- A value read from memory fits the bytes it was read from. -/
theorem readAll_lt (m : Memory) (pas : List Nat) : (m.readAll pas).toNat < 2 ^ (8 * pas.length) := by
  induction pas with
  | nil => exact Nat.one_pos
  | cons a as ih =>
    have hbyte := (m.read a).isLt
    have hrest := Nat.mod_le (m.readAll as).toNat (2 ^ 24)
    rw [readAll_cons_toNat, List.length_cons, Nat.mul_succ, Nat.pow_add]
    omega

/-- A 16-bit operand is read zero-extended (R72). -/
theorem readsWide_word_lt {s : State} {x : Rm Reg} {v : Dword} (ho : s.op32 = false) (h : ReadsWide s x v) :
    v.toNat < 2 ^ 16 := by
  cases x with
  | reg r =>
    rw [show v = s.regW s.op32 r from h, ho]
    show ((s.reg16 r).setWidth 32).toNat < 2 ^ 16
    rw [BitVec.toNat_setWidth_of_le (by decide)]
    exact (s.reg16 r).isLt
  | mem m =>
    obtain ⟨pas, hacc, rfl⟩ := h
    have hlen : pas.length = 2 := by
      rw [(accesses_ok hacc).1, State.opBytes, ho]
      rfl
    simpa [hlen] using readAll_lt s.mem pas

theorem setWidth_eq_zero_iff {d : Dword} (h : d.toNat < 2 ^ 16) : d.setWidth 16 = 0 ↔ d = 0 := by
  have hlow : (d.setWidth 16).toNat = d.toNat := by rw [BitVec.toNat_setWidth, Nat.mod_eq_of_lt h]
  rw [← BitVec.toNat_inj, hlow, ← BitVec.toNat_inj]
  rfl

theorem readRm8_begin {s : State} {x : Rm Reg8} {v : Byte} (h : ReadsByte s x v) : readRm8 s.begin x = .ok v :=
  readRm8_eq_ok.2 (readsByte_begin.2 h)

/-! The end of a divide. -/

theorem divided_setReg8 (s : State) (q r : Byte) :
    ((s.begin.setReg8 .al q).setReg8 .ah r).divided = (divideLeaves s ((s.setReg8 .al q).setReg8 .ah r)).begin := rfl

theorem divided_setRegW (s : State) (w : Bool) (q r : Dword) :
    ((s.begin.setRegW w .eax q).setRegW w .edx r).divided =
      (divideLeaves s ((s.setRegW w .eax q).setRegW w .edx r)).begin := by
  cases w <;> rfl

theorem setRegW_ofInt_word (s : State) (r : Reg) (i : Int) :
    s.setRegW false r (BitVec.ofInt 32 i) = s.setReg16 r (BitVec.ofInt 16 i) := by
  refine congrArg (s.setReg16 r) (BitVec.eq_of_toNat_eq ?_)
  rw [BitVec.toNat_setWidth, BitVec.toNat_ofInt, BitVec.toNat_ofInt]
  omega

theorem setRegW_ofNat_word (s : State) (r : Reg) (n : Nat) :
    s.setRegW false r (BitVec.ofNat 32 n) = s.setReg16 r (BitVec.ofNat 16 n) :=
  congrArg (s.setReg16 r) (BitVec.setWidth_ofNat_of_le (by decide) n)

theorem setRegW_dword (s : State) (r : Reg) (v : Dword) : s.setRegW true r v = s.setReg r v := rfl

/-- A division, once its divisor is read: `P` is when it raises #DE, `a` what it gives otherwise. -/
theorem run_divide {s t : State} {body : State → M State} {α : Type} {x : Option α} {k : α → M State} {P : Prop}
    [Decidable P] {a : α} (hl : s.pfx.lock = false) (hbody : body s.begin = quotient x >>= k)
    (hx : x = if P then none else some a) (hk : k a = .ok t.begin) :
    run s false body = if P then faults s 0 none else .next (completed s t) := by
  split
  · next hP =>
    rw [if_pos hP] at hx
    exact run_stops hl (hbody.trans (error_bind _ (congrArg quotient hx)))
  · next hP =>
    rw [if_neg hP] at hx
    exact run_completed hl (hbody.trans ((ok_bind _ (congrArg quotient hx)).trans hk))

/-- Settles O41: `run_divide` with the unsigned division at each width. -/
theorem divResult : Obligations.DivResult := by
  refine ⟨fun x s d hl hr => ?byte, fun x s d hl hr => ⟨fun ho => ?word, fun ho => ?dword⟩⟩ <;> unfold exec
  case byte =>
    exact run_divide hl (ok_bind _ (readRm8_begin hr)) (divUnsigned_eq rfl _ d) (congrArg Except.ok (divided_setReg8 ..))
  case word =>
    have hdiv := (divUnsigned_word d ho).trans (divUnsigned_eq (top := 0xFFFF) rfl _ d)
    refine run_divide hl (ok_bind _ (readRmW_begin hr)) hdiv (congrArg Except.ok ?_)
    rw [← setRegW_ofNat_word, ← setRegW_ofNat_word, ← ho]
    exact divided_setRegW ..
  case dword =>
    have hdiv := (divUnsigned_dword d ho).trans (divUnsigned_eq (top := 0xFFFFFFFF) rfl _ d)
    refine run_divide hl (ok_bind _ (readRmW_begin hr)) hdiv (congrArg Except.ok ?_)
    rw [← setRegW_dword, ← setRegW_dword, ← ho]
    exact divided_setRegW ..

/-- Settles O42: `run_divide` with the signed division at each width; a 16-bit divisor is 0 when its doubleword is. -/
theorem idivResult : Obligations.IdivResult := by
  refine ⟨fun x s d hl hr => ?byte, fun x s d hl hr => ⟨fun ho => ?word, fun ho => ?dword⟩⟩ <;> unfold exec
  case byte =>
    exact run_divide hl (ok_bind _ (readRm8_begin hr)) (divSigned_eq rfl rfl _ d) (congrArg Except.ok (divided_setReg8 ..))
  case word =>
    have hdiv := (divSigned_word d ho).trans (divSigned_eq (low := -32768) (top := 32767) rfl rfl _ _)
    simp only [setWidth_eq_zero_iff (readsWide_word_lt ho hr)] at hdiv
    refine run_divide hl (ok_bind _ (readRmW_begin hr)) hdiv (congrArg Except.ok ?_)
    rw [← setRegW_ofInt_word, ← setRegW_ofInt_word, ← ho]
    exact divided_setRegW ..
  case dword =>
    have hdiv := (divSigned_dword d ho).trans (divSigned_eq (low := -2147483648) (top := 2147483647) rfl rfl _ d)
    refine run_divide hl (ok_bind _ (readRmW_begin hr)) hdiv (congrArg Except.ok ?_)
    rw [← setRegW_dword, ← setRegW_dword, ← ho]
    exact divided_setRegW ..

end Sys2Proof.Proofs
end

section
/-! PROOFS. The shift and rotate instructions (O43 to O47): the operations, whose results are equations on unbounded integers
and whose flags are those of the rules, and what an instruction of the 42 does with them under its masked count. -/

namespace Sys2Proof.Proofs

open Sys2Proof.Machine Sys2Proof.Safety Sys2Proof.Laws

/-! Rotation on unbounded integers. -/

/-- The two parts of a rotation do not overlap, so that joining them is adding them. -/
theorem rotate_parts {x k m : Nat} (h : x < 2 ^ (k + m)) :
    x <<< k % 2 ^ (k + m) ||| x >>> m = (x * 2 ^ k + x / 2 ^ m) % 2 ^ (k + m) := by
  rw [Nat.pow_add] at h ⊢
  have hlow : x / 2 ^ m < 2 ^ k := Nat.div_lt_of_lt_mul (by rwa [Nat.mul_comm])
  have hhigh : x <<< k % (2 ^ k * 2 ^ m) = (x % 2 ^ m) <<< k := by
    rw [Nat.shiftLeft_eq, Nat.shiftLeft_eq, Nat.mul_comm (2 ^ k), Nat.mul_mod_mul_right]
  have hsum : (x % 2 ^ m) <<< k + x / 2 ^ m < 2 ^ k * 2 ^ m :=
    calc (x % 2 ^ m) <<< k + x / 2 ^ m < (x % 2 ^ m) * 2 ^ k + 2 ^ k := by rw [Nat.shiftLeft_eq]; omega
      _ = 2 ^ k * (x % 2 ^ m + 1) := by ring
      _ ≤ 2 ^ k * 2 ^ m := Nat.mul_le_mul_left _ (Nat.mod_lt x (Nat.two_pow_pos m))
  calc x <<< k % (2 ^ k * 2 ^ m) ||| x >>> m = (x % 2 ^ m) <<< k + x / 2 ^ m := by
        rw [hhigh, Nat.shiftRight_eq_div_pow, Nat.shiftLeft_add_eq_or_of_lt hlow]
    _ = ((x % 2 ^ m) <<< k + x / 2 ^ m) % (2 ^ k * 2 ^ m) := (Nat.mod_eq_of_lt hsum).symm
    _ = (x * 2 ^ k + x / 2 ^ m) % (2 ^ k * 2 ^ m) := by rw [← hhigh, Nat.mod_add_mod, Nat.shiftLeft_eq]

theorem rotateLeft_toNat {n : Nat} (hn : 0 < n) (x : BitVec n) (c : Nat) :
    (x.rotateLeft c).toNat = (x.toNat * 2 ^ (c % n) + x.toNat / 2 ^ (n - c % n)) % 2 ^ n := by
  have hsplit : c % n + (n - c % n) = n := Nat.add_sub_cancel' (Nat.mod_lt c hn).le
  have h := rotate_parts (x := x.toNat) (k := c % n) (m := n - c % n) (hsplit.symm ▸ x.isLt)
  rw [hsplit] at h
  rw [BitVec.toNat_rotateLeft, h]

theorem rotateRight_toNat {n : Nat} (hn : 0 < n) (x : BitVec n) (c : Nat) :
    (x.rotateRight c).toNat = (x.toNat / 2 ^ (c % n) + x.toNat * 2 ^ (n - c % n)) % 2 ^ n := by
  have hsplit : n - c % n + c % n = n := Nat.sub_add_cancel (Nat.mod_lt c hn).le
  have h := rotate_parts (x := x.toNat) (k := n - c % n) (m := c % n) (hsplit.symm ▸ x.isLt)
  rw [hsplit] at h
  rw [BitVec.toNat_rotateRight, Nat.or_comm, h, Nat.add_comm]

/-! The flags of a rotate: CF and OF, and no other. -/

theorem shiftFlags_rotate {n : Nat} {op : ShiftOp} (h : op.isShift = false) (f : Eflags) (d : BitVec n) (c k : Nat) :
    shiftFlags op f d c k =
      { f with
        cf := shiftCarry op f.cf d c (Config.drawBit (k + 1))
        of := shiftOverflow op f.cf d c (Config.drawBit k) } := by
  rw [shiftFlags, h]
  rfl

/-- Settles O45: the rotation's two parts added, CF the bit that went round, OF from the highest bits of the result. -/
theorem rotateRules : Obligations.RotateRules := by
  intro n d c k f hn _ _
  have hpos : 0 < n := by omega
  refine ⟨rotateLeft_toNat hpos d c, rotateRight_toNat hpos d c, ?_, ?_⟩
  · rw [shiftFlags_rotate rfl, shiftOverflow, BitVec.msb_eq_getLsbD_last]
    rfl
  · rw [shiftFlags_rotate rfl, shiftOverflow, shiftCarry, BitVec.msb_eq_getLsbD_last, BitVec.msb_eq_getLsbD_last]
    rfl

/-! The n + 1 bits of RCL and RCR. -/

theorem withCarry_toNat {n : Nat} (cf : Bool) (d : BitVec n) :
    (withCarry cf d).toNat = cf.toNat * 2 ^ n + d.toNat := by
  rw [withCarry, append_toNat, BitVec.toNat_ofBool]

theorem rclBits_toNat {n : Nat} (cf : Bool) (d : BitVec n) (c : Nat) :
    (rclBits cf d c).toNat =
      ((withCarry cf d).toNat * 2 ^ (c % (n + 1)) + (withCarry cf d).toNat / 2 ^ (n + 1 - c % (n + 1))) % 2 ^ (n + 1) := by
  rw [rclBits, rotateLeft_toNat (by omega), Nat.add_comm n 1]

theorem rcrBits_toNat {n : Nat} (cf : Bool) (d : BitVec n) (c : Nat) :
    (rcrBits cf d c).toNat =
      ((withCarry cf d).toNat / 2 ^ (c % (n + 1)) + (withCarry cf d).toNat * 2 ^ (n + 1 - c % (n + 1))) % 2 ^ (n + 1) := by
  rw [rcrBits, rotateRight_toNat (by omega), Nat.add_comm n 1]

/-- The top one of n + 1 bits. -/
theorem getLsbD_top {n : Nat} (x : BitVec (1 + n)) : x.getLsbD n = decide (x.toNat / 2 ^ n = 1) := by
  have hlt : x.toNat / 2 ^ n < 2 := Nat.div_lt_of_lt_mul (by rw [← Nat.pow_succ, Nat.succ_eq_one_add]; exact x.isLt)
  rw [BitVec.getLsbD, Nat.testBit_eq_decide_div_mod_eq, Nat.mod_eq_of_lt hlt]

theorem setWidth_msb {n : Nat} (hn : 0 < n) (x : BitVec (1 + n)) : (x.setWidth n).msb = x.toNat.testBit (n - 1) := by
  rw [BitVec.msb_eq_getLsbD_last, BitVec.getLsbD_setWidth, decide_eq_true (by omega), Bool.true_and]
  rfl

/-- Settles O46: the n + 1 bits rotated, the low ones the result and the top one CF. -/
theorem rotateThroughCarryRules : Obligations.RotateThroughCarryRules := by
  intro n d c k f hn _ _
  have hpos : 0 < n := by omega
  simp only [← withCarry_toNat, ← rclBits_toNat, ← rcrBits_toNat, ← getLsbD_top, ← setWidth_msb hpos,
    ← BitVec.msb_eq_getLsbD_last]
  exact ⟨BitVec.toNat_setWidth .., BitVec.toNat_setWidth .., shiftFlags_rotate rfl .., shiftFlags_rotate rfl ..⟩

/-! The flags of a shift. -/

theorem succ_mod_two_beq_zero (n : Nat) : ((n + 1) % 2 == 0) = !(n % 2 == 0) := by
  rcases Nat.mod_two_eq_zero_or_one n with h | h <;> simp [Nat.add_mod, h]

/-- Adding truth values modulo 2 is counting those that are true, modulo 2. -/
theorem foldl_xor_eq_odd_length_filter {α : Type} (p : α → Bool) (l : List α) (b : Bool) :
    l.foldl (fun b a => b ^^ p a) b = (b ^^ !((l.filter p).length % 2 == 0)) := by
  induction l generalizing b with
  | nil => simp
  | cons a l ih =>
    rw [List.foldl_cons, ih, List.filter_cons]
    cases p a with
    | false => rw [Bool.xor_false, if_neg Bool.false_ne_true]
    | true => rw [if_pos rfl, List.length_cons, succ_mod_two_beq_zero, Bool.xor_assoc, Bool.true_xor]

/-- The model's sum of the eight bits is the count of the spec (R19). -/
theorem evenParity_eq_evenOnes (b : Byte) : evenParity b = evenOnes b := by
  have hsum : evenParity b = !(List.range 8).foldl (fun p i => p ^^ b.getLsbD i) false := by
    simp [evenParity, List.range_succ]
  rw [hsum, foldl_xor_eq_odd_length_filter, Bool.false_xor, Bool.not_not]
  rfl

theorem shiftFlags_shift {n : Nat} {op : ShiftOp} (h : op.isShift = true) (f : Eflags) (d : BitVec n) (c k : Nat) :
    shiftFlags op f d c k =
      { f with
        cf := shiftCarry op f.cf d c (Config.drawBit (k + 1))
        of := shiftOverflow op f.cf d c (Config.drawBit k)
        sf := (shiftResult op f.cf d c).getLsbD (n - 1)
        zf := decide (shiftResult op f.cf d c = 0)
        pf := evenOnes ((shiftResult op f.cf d c).setWidth 8)
        af := Config.drawBit (k + 2) } := by
  rw [shiftFlags, h, resultFlags, evenParity_eq_evenOnes, BitVec.msb_eq_getLsbD_last]
  rfl

/-- A count of 1 is below the width, so that the CF which SHL's OF is made of is no free value (R180). -/
theorem shiftOverflow_shl {n : Nat} (hn : 1 < n) (cf : Bool) (d : BitVec n) (c : Nat) (free free' : Bool) :
    shiftOverflow .shl cf d c free =
      if c = 1 then (shiftResult .shl cf d c).getLsbD (n - 1) ^^ shiftCarry .shl cf d c free' else free := by
  rw [shiftOverflow, BitVec.msb_eq_getLsbD_last]
  split
  · next h1 => simp only [shiftCarry, h1, if_pos hn]
  · rfl

/-- Settles O47: the results on unbounded integers, and the flags by `shiftFlags_shift`. -/
theorem shiftRules : Obligations.ShiftRules := by
  intro n d c k f hn _ _
  refine ⟨?_, ?_, ?_, ?_, ?_, ?_⟩
  · exact (BitVec.toNat_shiftLeft ..).trans (by rw [Nat.shiftLeft_eq])
  · exact (BitVec.toNat_ushiftRight ..).trans (Nat.shiftRight_eq_div_pow ..)
  · refine BitVec.toInt_sshiftRight.trans ?_
    rw [Int.shiftRight_eq_div_pow]
    norm_cast
  · rw [shiftFlags_shift rfl, shiftOverflow_shl (by omega)]
    rfl
  · rw [shiftFlags_shift rfl, shiftOverflow, BitVec.msb_eq_getLsbD_last]
    rfl
  · rw [shiftFlags_shift rfl, shiftCarry, BitVec.msb_eq_getLsbD_last]
    rfl

/-! The instructions, by operation and form of the count. -/

theorem begin_putByte (s : State) (x : Rm Reg8) (pas : List Nat) (v : Byte) :
    (putByte s x pas v).begin = putByte s.begin x pas v := by
  cases x with
  | reg r => rfl
  | mem m => rfl

theorem writeRm8_begin {s : State} {x : Rm Reg8} {pas : List Nat} (h : Writes s x 1 pas) (v : Byte) :
    writeRm8 s.begin x v = .ok (putByte s x pas v).begin := by
  rw [begin_putByte]
  exact writeRm8_ok (writes_begin.2 h)

theorem shift8_count_zero {s : State} {op : ShiftOp} {x : Rm Reg8} {count d : Byte} (hc : count.toNat % 32 = 0)
    (hr : ReadsByte s x d) : shift8 op x count s.begin = .ok s.begin := by
  rw [shift8, ok_bind _ (readRm8_begin hr), maskCount_eq, if_pos hc]

theorem shiftW_count_zero {s : State} {op : ShiftOp} {x : Rm Reg} {count : Byte} {d : Dword}
    (hc : count.toNat % 32 = 0) (hr : ReadsWide s x d) : shiftW op x count s.begin = .ok s.begin := by
  rw [shiftW, ok_bind _ (readRmW_begin hr), maskCount_eq, if_pos hc]

theorem shift8_writes {s : State} {op : ShiftOp} {x : Rm Reg8} {count d : Byte} {pas : List Nat}
    (hc : count.toNat % 32 ≠ 0) (hr : ReadsByte s x d) (hw : Writes s x 1 pas) :
    shift8 op x count s.begin =
      .ok (s.shifted (putByte s x pas (shiftResult op s.eflags.cf d (count.toNat % 32))) op d (count.toNat % 32)).begin := by
  rw [shift8, ok_bind _ (readRm8_begin hr), maskCount_eq, if_neg hc, ok_bind _ (writeRm8_begin hw _)]
  rfl

theorem shiftW_writes_dword {s : State} {op : ShiftOp} {x : Rm Reg} {count : Byte} {d : Dword} {pas : List Nat}
    (ho : s.op32 = true) (hc : count.toNat % 32 ≠ 0) (hr : ReadsWide s x d) (hw : Writes s x s.opBytes pas) :
    shiftW op x count s.begin =
      .ok (s.shifted (putWide s x pas (shiftResult op s.eflags.cf d (count.toNat % 32))) op d (count.toNat % 32)).begin := by
  have ho' : s.begin.op32 = true := ho
  rw [shiftW, ok_bind _ (readRmW_begin hr), maskCount_eq, if_neg hc, if_pos ho', ok_bind _ (writeRmW_begin hw _)]
  rfl

theorem shiftW_writes_word {s : State} {op : ShiftOp} {x : Rm Reg} {count : Byte} {d : Dword} {pas : List Nat}
    (ho : s.op32 = false) (hc : count.toNat % 32 ≠ 0) (hr : ReadsWide s x d) (hw : Writes s x s.opBytes pas) :
    shiftW op x count s.begin =
      .ok (s.shifted (putWide s x pas ((shiftResult op s.eflags.cf (d.setWidth 16) (count.toNat % 32)).setWidth 32)) op
        (d.setWidth 16) (count.toNat % 32)).begin := by
  have ho' : ¬ s.begin.op32 = true := Bool.eq_false_iff.1 ho
  rw [shiftW, ok_bind _ (readRmW_begin hr), maskCount_eq, if_neg hc, if_neg ho', ok_bind _ (writeRmW_begin hw _)]
  rfl

/-- Settles O43: the body of every one of the 42 is `shift8` or `shiftW`, which change nothing or write under a count that is
not 0. -/
theorem shiftResult : Obligations.ShiftResult := by
  refine ⟨fun op f x s d hl hr => ?_, fun op f x s d hl hr => ?_⟩
  · rw [exec_byteShift]
    exact ⟨fun hc => run_completed hl (shift8_count_zero hc hr), fun pas hc hw => run_completed hl (shift8_writes hc hr hw)⟩
  · rw [exec_wideShift]
    refine ⟨fun hc => run_completed hl (shiftW_count_zero hc hr), fun pas hc hw => ?_⟩
    split
    · next ho => exact run_completed hl (shiftW_writes_dword ho hc hr hw)
    · next ho => exact run_completed hl (shiftW_writes_word (Bool.eq_false_iff.2 ho) hc hr hw)

theorem shift8_congr {c c' : Byte} (h : maskCount c = maskCount c') (op : ShiftOp) (x : Rm Reg8) (s : State) :
    shift8 op x c s = shift8 op x c' s := by
  rw [shift8, shift8, h]

theorem shiftW_congr {c c' : Byte} (h : maskCount c = maskCount c') (op : ShiftOp) (x : Rm Reg) (s : State) :
    shiftW op x c s = shiftW op x c' s := by
  rw [shiftW, shiftW, h]

/-- Settles O44: the count reaches the operation masked only. -/
theorem shiftCountModulo32 : Obligations.ShiftCountModulo32 := by
  intro op c c' s h
  have hmask : maskCount c = maskCount c' := by rw [maskCount_eq, maskCount_eq, h]
  refine ⟨fun x => ?_, fun x => ?_⟩
  · rw [exec_byteShift, exec_byteShift]
    exact congrArg (run s false) (funext (shift8_congr hmask op x))
  · rw [exec_wideShift, exec_wideShift]
    exact congrArg (run s false) (funext (shiftW_congr hmask op x))

end Sys2Proof.Proofs
end

section
/-! PROOFS. LOCK before an instruction that may not carry it (O17): every meaning but that of a prefix byte begins with the LOCK
check, so that the exception of an illegal LOCK comes before any effect and any other exception. -/

namespace Sys2Proof.Proofs

open Sys2Proof.Machine Sys2Proof.Safety Sys2Proof.Laws

section Locked

variable {s : State} (hl : s.pfx.lock = true)
include hl

/-- What would follow the LOCK check is not reached. -/
theorem finish_locked (k : Unit → M State) : finish s (lockGuard s false >>= k) = lockFaults s := by
  obtain ⟨e, hguard, hfaults⟩ := lockGuard_illegal hl
  rw [error_bind k hguard]
  exact hfaults

theorem run_locked (body : State → M State) : run s false body = lockFaults s :=
  finish_locked hl _

theorem runJump_locked (body : State → M State) : runJump s body = lockFaults s :=
  finish_locked hl _

theorem runString_locked (op : StringIo) (n : Nat) (once : State → Nat → M State) :
    runString op s n once = lockFaults s :=
  finish_locked hl _

theorem execIntN_locked (n : Byte) : execIntN n s = lockFaults s := by
  obtain ⟨e, hguard, hfaults⟩ := lockGuard_illegal hl
  rw [execIntN, error_bind _ hguard]
  exact hfaults

/-- LOCK is legal before XCHG by its memory operand only (R190). -/
theorem execXchg_reg_locked (r q : Reg) : execXchg (.reg r) q s = lockFaults s :=
  run_locked hl _

end Locked

/-- Settles O17: INT n, IRET, string I/O and XCHG with a register have their own rules above, and every other instruction that is
no prefix byte is a `run` that LOCK may not precede. -/
theorem lockFaultsUnlessLockable : Obligations.LockFaultsUnlessLockable := by
  intro i s hl hxchg hpfx
  unfold exec
  cases i with
  | opSizePfx | addrSizePfx | esPfx | csPfx | ssPfx | dsPfx | fsPfx | gsPfx | lockPfx | repnePfx | repPfx =>
    exact absurd (by decide) hpfx
  | xchg dst src =>
    cases dst with
    | mem m => exact absurd rfl (hxchg m src)
    | reg r => exact execXchg_reg_locked hl r src
  | intN n => exact execIntN_locked hl n
  | iret => exact runJump_locked hl _
  | insb | insw | outsb | outsw => exact runString_locked hl _ _ _
  | _ => exact run_locked hl _

end Sys2Proof.Proofs
end

section
/-! PROOFS. Instructions in V86 mode, delivery and boundaries (O35, O52, O53, O55, O59): what leaves V86 mode, what a page fault
carries, which handler delivery enters, and which pending event a boundary takes. -/

namespace Sys2Proof.Proofs

open Sys2Proof.Machine Sys2Proof.Safety Sys2Proof.Laws

/-! What leaves V86 mode. -/

/-- Settles O35: an instruction's own effect leaves VM, CPL and IOPL, and what is no such effect is a delivery. -/
theorem v86LeftOnlyByDelivery : Obligations.V86LeftOnlyByDelivery := by
  intro i s t hv hc h
  rcases exec_own_or_delivers hv h with hown | hdelivers
  · have hcpl := congrArg State.cpl hown.system
    exact .inl ⟨hown.vm.trans hv, hcpl.trans hc, hown.iopl⟩
  · exact .inr hdelivers

/-! Delivery through a gate that is open, and through one whose target fails R206's check. -/

/-- Settles O53, by the delivery that INT n shares. -/
theorem deliveryEntersHandler : Obligations.DeliveryEntersHandler :=
  fun _ _ _ _ _ _ _ _ _ hv h => deliver_of_gateOpen hv h

/-- No segment, or one that is no nonconforming code segment of privilege level 0, is no target (R206). -/
theorem gateTarget_none {s : State} {g : Gate}
    (h : ∀ d, s.segDesc g.sel = some d → d.code = false ∨ d.conforming = true ∨ d.dpl ≠ 0) : s.gateTarget g = none := by
  refine Option.eq_none_iff_forall_ne_some.2 fun d hd => ?_
  obtain ⟨hdesc, hcode, hconf, hdpl⟩ := gateTarget_some.1 hd
  rcases h d hdesc with hbad | hbad | hbad
  · cases hcode.symm.trans hbad
  · cases hconf.symm.trans hbad
  · exact hbad hdpl

theorem deliverOnce_badTarget {s : State} {ev : Event} {g : Gate} (hg : readGate s ev.vector = .ok g)
    (hp : g.present = true) (hk : g.kind = .trap32 ∨ g.kind = .int32) (ht : s.gateTarget g = none) :
    deliverOnce s ev = .badTarget g.sel := by
  rcases hk with hk | hk <;> simp only [deliverOnce, hg, deliverGate, hp, if_true, hk, ht]

/-- Settles O55: the first attempt stops at its target before anything is pushed, and the #GP goes through its own open gate. -/
theorem badGateTargetRaisesGp : Obligations.BadGateTargetRaisesGp := by
  intro s ev g g13 code ss0 stack esp0 u esp hv hg hp hk hbad hopen
  have hfirst : deliverOnce s ev = .badTarget g.sel := deliverOnce_badTarget hg hp hk (gateTarget_none hbad)
  have hsecond : deliverOnce s (badTargetEvent s ev g.sel) = .done (inHandler u false g13 code ss0 stack esp) := by
    have hgate : readGate s (badTargetEvent s ev g.sel).vector = .ok g13 := hopen.gate
    simp only [deliverOnce, hgate]
    exact deliverGate_of_gateOpen hopen
  simp only [deliver, mode_v86 hv, deliverV86, hfirst, hsecond]

/-! Translation by the page table, and page faults. -/

/-- The entry of the page table that counts for a linear address: the first of its page under CR3 (log 13). -/
def pageEntry (s : State) (la : Dword) : Option PageEntry :=
  s.pageMap.find? fun e => e.cr3 == s.ctrl.cr3 && e.page == la.extractLsb' 12 20

theorem pageEntry_none {s : State} {la : Dword}
    (h : ∀ e ∈ s.pageMap, ¬ (e.cr3 = s.ctrl.cr3 ∧ e.page = la.extractLsb' 12 20)) : pageEntry s la = none :=
  List.find?_eq_none.2 fun e he => by simpa using h e he

theorem pageEntry_first {s : State} {la : Dword} {before rest : List PageEntry} {e : PageEntry}
    (hm : s.pageMap = before ++ e :: rest)
    (hb : ∀ x ∈ before, ¬ (x.cr3 = s.ctrl.cr3 ∧ x.page = la.extractLsb' 12 20))
    (hc : e.cr3 = s.ctrl.cr3) (hpage : e.page = la.extractLsb' 12 20) : pageEntry s la = some e := by
  rw [pageEntry, hm, List.find?_eq_some_iff_append]
  exact ⟨by simp [hc, hpage], before, rest, rfl, fun x hx => by simpa [imp_iff_not_or] using hb x hx⟩

/-- With paging on a page without an entry is not present (R44, R51). -/
theorem linToPhys_unlisted {s : State} {la : Dword} (k : Access) (p : Priv) (hpg : s.pg = true)
    (h : pageEntry s la = none) : linToPhys s la k p = .error (.exc (excPF la false k p)) := by
  unfold pageEntry at h
  rw [linToPhys, if_pos hpg, h]
  rfl

/-- With paging on the page's entry says which accesses it allows, and where they go (R44, R51). -/
theorem linToPhys_listed {s : State} {la : Dword} {e : PageEntry} (k : Access) (p : Priv) (hpg : s.pg = true)
    (h : pageEntry s la = some e) :
    linToPhys s la k p =
      if (k, p) ∈ e.allowed then .ok (e.frame ++ la.extractLsb' 0 12) else .error (.exc (excPF la true k p)) := by
  unfold pageEntry at h
  rw [linToPhys, if_pos hpg, h]
  simp only [List.contains_iff_mem, raising]

/-- A physical address is the page's frame and the offset in the page. -/
theorem frame_append_offset (frame : BitVec 20) (la : Dword) :
    frame ++ la.extractLsb' 0 12 = BitVec.ofNat 32 (frame.toNat * 4096 + la.toNat % 4096) := by
  apply BitVec.eq_of_toNat_eq
  rw [append_toNat, extract_toNat, BitVec.toNat_ofNat]
  omega

/-- The error code of a page fault, by its bits: present, write, user (R232). -/
theorem excPF_err (la : Dword) (present : Bool) (k : Access) (p : Priv) :
    (excPF la present k p).err =
      some (BitVec.ofNat 32 (present.toNat + 2 * (decide (k = .write)).toNat + 4 * (decide (p = .user)).toNat)) := by
  cases present <;> cases k <;> cases p <;> rfl

/-- Settles O52: the entry of the page decides, and raising the fault leaves its address in CR2. -/
theorem pageFaultReported : Obligations.PageFaultReported := by
  intro s la k p hpg
  refine ⟨fun hnone => ?_, fun before e rest hm hb hc hpage => ?_, fun present => ?_⟩
  · exact linToPhys_unlisted k p hpg (pageEntry_none hnone)
  · rw [linToPhys_listed k p hpg (pageEntry_first hm hb hc hpage), frame_append_offset]
  · rw [← excPF_err la present k p]
    rfl

/-! Which event a boundary takes. -/

/-- An event that is taken at a boundary is the whole step. -/
theorem step_of_takeEvent {s u : State} {o : Out} (hl : s.ilen = 0) (ha : absorb s = .ok u) (he : takeEvent u = some o) :
    step s = o := by
  have hb : boundary s = .outcome o := by
    unfold boundary
    rw [if_pos hl, ha]
    dsimp only
    rw [he]
  rw [step, hb]

theorem takeEvent_trap {s : State} (h : s.takesTrap = true) :
    takeEvent s = some (deliver { s with trapPending := false } (trapEvent s)) := by
  rw [takeEvent, if_pos h]

theorem takeEvent_nmi {s : State} (ht : s.takesTrap = false) (h : s.takesNmi = true) :
    takeEvent s = some (deliver { s with nmiMasked := true, nmiPending := false } (nmiEvent s)) := by
  rw [takeEvent, ht, if_neg Bool.false_ne_true, if_pos h]

theorem takeEvent_irq {s : State} {v : Byte} {vs : List Byte} (ht : s.takesTrap = false) (hn : s.takesNmi = false)
    (h : s.acceptsIrq = true) (hq : s.irqs = v :: vs) :
    takeEvent s = some (deliver { s with irqs := vs } (irqEvent s v)) := by
  rw [takeEvent, ht, if_neg Bool.false_ne_true, hn, if_neg Bool.false_ne_true, if_pos h, hq]

/-- Settles O59: the three events of `takeEvent` in their order, each by the condition on which it is accepted. -/
theorem eventsTakenInOrder : Obligations.EventsTakenInOrder := by
  intro s u hl ha hss
  have notrap (h : u.trapPending = false) : u.takesTrap = false := by rw [State.takesTrap, h]; rfl
  refine ⟨fun ht => ?_, fun ht hn hm => ?_, fun v vs ht hn hif hsh hq => ?_⟩
  · exact step_of_takeEvent hl ha (takeEvent_trap (by rw [State.takesTrap, ht, hss]; rfl))
  · exact step_of_takeEvent hl ha (takeEvent_nmi (notrap ht) (by rw [State.takesNmi, hn, hm, hss]; rfl))
  · have hnmi : u.takesNmi = false := by
      rcases hn with h | h <;> simp [State.takesNmi, h]
    have hirq : u.acceptsIrq = true := by rw [State.acceptsIrq, hif, hsh, hss]; rfl
    exact step_of_takeEvent hl ha (takeEvent_irq (notrap ht) hnmi hirq hq)

end Sys2Proof.Proofs
end

section
/-! PROOFS. The frame that delivery pushes (O54). Pushes, like the saves of a task switch, store fields at places above a base: what
memory holds after stores that do not overlap is shown once, over the list of fields. -/

namespace Sys2Proof.Proofs

open Sys2Proof.Machine Sys2Proof.Safety Sys2Proof.Laws

/-! Fields stored above a base. -/

/-- A field: its place above the base, its size in bytes, and its value. -/
abbrev StoredField := Nat × Nat × Dword

/-- The bytes of a field, where the base does not wrap. -/
def fieldBytes (base : Dword) (f : StoredField) : List Nat := tssBytes base f.1 f.2.1

/-- Memory with the fields stored, in their order. -/
def storeFields (m : Memory) (base : Dword) : List StoredField → Memory
  | [] => m
  | f :: fs => storeFields (m.writeAll (fieldBytes base f) f.2.2) base fs

/-- Two fields do not overlap. -/
def Apart (f g : StoredField) : Prop := f.1 + f.2.1 ≤ g.1 ∨ g.1 + g.2.1 ≤ f.1

theorem wf_of_memoryOk {s : State} (h : memoryOk s = true) : s.mem.wf = true := by
  simp only [memoryOk, Bool.and_eq_true] at h
  exact h.1

theorem mem_tssBytes {base : Dword} {k n a : Nat} :
    a ∈ tssBytes base k n ↔ base.toNat + k ≤ a ∧ a < base.toNat + k + n := by
  simp only [tssBytes, List.mem_map, List.mem_range]
  constructor
  · rintro ⟨i, hi, rfl⟩
    omega
  · intro h
    exact ⟨a - (base.toNat + k), by omega, by omega⟩

theorem mem_fieldBytes {base : Dword} {f : StoredField} {a : Nat} :
    a ∈ fieldBytes base f ↔ base.toNat + f.1 ≤ a ∧ a < base.toNat + f.1 + f.2.1 := mem_tssBytes

theorem tssBytes_length (base : Dword) (k n : Nat) : (tssBytes base k n).length = n := by simp [tssBytes]

theorem tssBytes_nodup (base : Dword) (k n : Nat) : (tssBytes base k n).Nodup :=
  List.nodup_range.map fun i j h => by simpa using h

/-- Where the base and the place do not wrap at 2^32, the bytes of an access with paging off are those of the field. -/
theorem consecutive_eq_tssBytes {base : Dword} {k n : Nat} (h : base.toNat + k + n ≤ 2 ^ 32) :
    consecutive (base + BitVec.ofNat 32 k) n = tssBytes base k n := by
  refine List.map_congr_left fun i hi => ?_
  rw [List.mem_range] at hi
  simp only [BitVec.toNat_add, BitVec.toNat_ofNat]
  omega

theorem linWrite_field {s : State} {base v : Dword} {k n : Nat} (p : Priv) (hp : s.pg = false)
    (h : base.toNat + k + n ≤ 2 ^ 32) :
    linWrite s (base + BitVec.ofNat 32 k) n v p = .ok (s.storeAt (tssBytes base k n) v) := by
  rw [← consecutive_eq_tssBytes h]
  exact linWrite_eq_ok.2 ⟨_, physAddrs_off .write p _ n hp, rfl⟩

/-- A byte of no field keeps its value. -/
theorem read_storeFields_other {m : Memory} {base : Dword} {fs : List StoredField} {a : Nat}
    (h : ∀ f ∈ fs, a ∉ fieldBytes base f) : (storeFields m base fs).read a = m.read a := by
  induction fs generalizing m with
  | nil => rfl
  | cons f fs ih =>
    rw [List.forall_mem_cons] at h
    rw [storeFields, ih h.2, read_writeAll_other _ _ _ h.1]

/-- A value read depends on the bytes at its addresses only. -/
theorem readAll_congr {m m' : Memory} {pas : List Nat} (h : ∀ a ∈ pas, m.read a = m'.read a) :
    m.readAll pas = m'.readAll pas := by
  induction pas with
  | nil => rfl
  | cons a as ih =>
    rw [List.forall_mem_cons] at h
    rw [Memory.readAll, Memory.readAll, h.1, ih h.2]

/-- Each of the fields that do not overlap holds the low bytes of its value. -/
theorem readAll_storeFields {m : Memory} {base : Dword} {fs : List StoredField} (hm : m.wf = true) (hd : fs.Pairwise Apart) :
    ∀ f ∈ fs, (storeFields m base fs).readAll (fieldBytes base f) = lowBytes f.2.1 f.2.2 := by
  induction fs generalizing m with
  | nil => simp
  | cons g fs ih =>
    obtain ⟨hg, hd⟩ := List.pairwise_cons.1 hd
    rw [List.forall_mem_cons]
    refine ⟨?_, ih (writeAll_wf _ _ hm) hd⟩
    have hlater : ∀ a ∈ fieldBytes base g, ∀ f ∈ fs, a ∉ fieldBytes base f := by
      intro a ha f hf hmem
      rw [mem_fieldBytes] at ha hmem
      rcases hg f hf with h | h <;> omega
    calc (storeFields m base (g :: fs)).readAll (fieldBytes base g)
        = (m.writeAll (fieldBytes base g) g.2.2).readAll (fieldBytes base g) :=
          readAll_congr fun a ha => read_storeFields_other (hlater a ha)
      _ = lowBytes (fieldBytes base g).length g.2.2 := readAll_writeAll _ hm (tssBytes_nodup ..)
      _ = lowBytes g.2.1 g.2.2 := by rw [fieldBytes, tssBytes_length]

/-! The frame. -/

/-- The doublewords pushed from `top` down, as fields of the stack segment. -/
def frameFields (top : Nat) : List Dword → List StoredField
  | [] => []
  | v :: vs => (top - 4, 4, v) :: frameFields (top - 4) vs

theorem frameFields_bounds {top : Nat} {vs : List Dword} (h : 4 * vs.length ≤ top) :
    ∀ f ∈ frameFields top vs, top - 4 * vs.length ≤ f.1 ∧ f.1 + f.2.1 ≤ top := by
  induction vs generalizing top with
  | nil => simp [frameFields]
  | cons v vs ih =>
    simp only [List.length_cons] at h ⊢
    rw [frameFields, List.forall_mem_cons]
    refine ⟨⟨by omega, by dsimp only; omega⟩, fun f hf => ?_⟩
    have := ih (top := top - 4) (by omega) f hf
    omega

theorem frameFields_apart {top : Nat} {vs : List Dword} (h : 4 * vs.length ≤ top) :
    (frameFields top vs).Pairwise Apart := by
  induction vs generalizing top with
  | nil => exact .nil
  | cons v vs ih =>
    simp only [List.length_cons] at h
    refine .cons (fun f hf => .inr ?_) (ih (by omega))
    exact (frameFields_bounds (by omega) f hf).2

theorem mem_frameFields {top k : Nat} {v : Dword} {vs : List Dword} (h : vs[k]? = some v) :
    (top - 4 * k - 4, 4, v) ∈ frameFields top vs := by
  induction vs generalizing top k with
  | nil => simp at h
  | cons w vs ih =>
    cases k with
    | zero => simp_all [frameFields]
    | succ k =>
      have hmem := ih (top := top - 4) (k := k) (by simpa using h)
      rw [show top - 4 * (k + 1) - 4 = top - 4 - 4 * k - 4 by omega]
      exact List.mem_cons_of_mem _ hmem

/-- With paging off and room below `top` the pushes succeed, and store their doublewords (R203, R204). -/
theorem pushFrame_stores {s : State} {stack : SegDesc} {top : Nat} {vs : List Dword} (hp : s.pg = false)
    (hroom : 4 * vs.length ≤ top) (hlim : top ≤ stack.limit.toNat + 1) (hbase : stack.base.toNat + top ≤ 2 ^ 32) :
    ∃ u, pushFrame s stack (BitVec.ofNat 32 top) vs = .ok (u, BitVec.ofNat 32 (top - 4 * vs.length)) ∧
      u.mem = storeFields s.mem stack.base (frameFields top vs) ∧ u = { s with mem := u.mem, written := u.written } := by
  induction vs generalizing s top with
  | nil => exact ⟨s, rfl, rfl, rfl⟩
  | cons v vs ih =>
    simp only [List.length_cons] at hroom ⊢
    have hesp : BitVec.ofNat 32 top - 4 = BitVec.ofNat 32 (top - 4) := by
      apply BitVec.eq_of_toNat_eq
      have h4 : (4 : Dword).toNat = 4 := rfl
      simp only [BitVec.toNat_sub, BitVec.toNat_ofNat, h4]
      omega
    have hfits : ¬ stack.limit.toNat < (BitVec.ofNat 32 (top - 4)).toNat + 3 := by
      rw [BitVec.toNat_ofNat]
      omega
    have hwrite := linWrite_field (s := s) (base := stack.base) (v := v) (k := top - 4) (n := 4) .supervisor hp (by omega)
    obtain ⟨u, hpush, hmem, hrest⟩ := ih (s := s.storeAt (tssBytes stack.base (top - 4) 4) v) (top := top - 4) hp (by omega)
      (by omega) (by omega)
    refine ⟨u, ?_, hmem, hrest⟩
    rw [pushFrame, hesp, if_neg hfits, ok_bind _ hwrite, hpush, Nat.sub_sub, Nat.mul_succ, Nat.add_comm 4]

theorem frameWords_eq (s : State) (ev : Event) :
    frameWords s ev =
      [(s.sel .gs).setWidth 32, (s.sel .fs).setWidth 32, (s.sel .ds).setWidth 32, (s.sel .es).setWidth 32,
        (s.sel .ss).setWidth 32, s.reg .esp, s.eflags.word, (s.sel .cs).setWidth 32, ev.ret] ++ ev.err.toList := rfl

theorem frameWords_length (s : State) (ev : Event) :
    4 * (frameWords s ev).length = if ev.err = none then 36 else 40 := by
  cases h : ev.err <;> simp [frameWords, h]

/-- The low four bytes of a doubleword are the doubleword. -/
theorem lowBytes_four (v : Dword) : lowBytes 4 v = v := by simp [lowBytes]

/-- Settles O54: the pushes store the fields of the frame, which do not overlap. -/
theorem frameLayout : Obligations.FrameLayout := by
  intro s ev stack top size hp hm hsize hroom hlim hbase
  have hlen : 4 * (frameWords s ev).length = size := (frameWords_length s ev).trans hsize.symm
  have hroom' : 4 * (frameWords s ev).length ≤ top := hlen.trans_le hroom
  obtain ⟨u, hpush, hmem, hrest⟩ := pushFrame_stores hp hroom' hlim hbase
  rw [hlen] at hpush
  refine ⟨u, hpush, fun k v hv => ?_, fun a ha => ?_, hrest, frameWords_eq s ev⟩
  · have hk : k < (frameWords s ev).length := (List.getElem?_eq_some_iff.1 hv).1
    have hread : (storeFields s.mem stack.base (frameFields top (frameWords s ev))).readAll
        (fieldBytes stack.base (top - 4 * k - 4, 4, v)) = lowBytes 4 v :=
      readAll_storeFields (wf_of_memoryOk hm) (frameFields_apart hroom') _ (mem_frameFields hv)
    have hplaces : fieldBytes stack.base (top - 4 * k - 4, 4, v) =
        [stack.base.toNat + top - 4 * k - 4, stack.base.toNat + top - 4 * k - 3,
          stack.base.toNat + top - 4 * k - 2, stack.base.toNat + top - 4 * k - 1] := by
      simp only [fieldBytes, tssBytes, List.range_succ, List.range_zero, List.nil_append, List.cons_append, List.map_cons,
        List.map_nil, List.cons.injEq, and_true]
      omega
    rwa [hplaces, lowBytes_four, ← hmem] at hread
  · rw [hmem]
    refine read_storeFields_other fun f hf hbyte => ?_
    have hbounds := frameFields_bounds hroom' f hf
    rw [mem_fieldBytes] at hbyte
    omega

end Sys2Proof.Proofs
end

section
/-! PROOFS. The task switch (O56): its steps are taken apart once; what it saves are fields stored that do not overlap, what it
loads are the fields of the incoming TSS as the memory so left holds them. -/

namespace Sys2Proof.Proofs

open Sys2Proof.Machine Sys2Proof.Safety Sys2Proof.Laws

/-! The segment registers of the incoming task. -/

/-- What a segment register holds after the incoming task's selector `w` was loaded into it (R208, log 21). -/
structure TaskSeg (s : State) (w : Word) (g : SegReg) : Prop where
  sel : g.sel = w
  v86 : s.vm = true → g = seg8086 w
  prot : s.vm = false → (w &&& 0xFFFC = 0 ∧ g = nullSeg w) ∨ ∃ c, s.segDesc w = some c ∧ g = descSeg w c

theorem loadSegProtected_ok {s t : State} {r : SReg} {w : Word} (h : loadSegProtected s r w = .ok t) :
    ∃ g, t = s.setSeg r g ∧ g.sel = w ∧
      ((w &&& 0xFFFC = 0 ∧ g = nullSeg w) ∨ ∃ c, s.segDesc w = some c ∧ g = descSeg w c) := by
  unfold loadSegProtected at h
  split at h
  · next hnull =>
    split at h <;> cases h
    exact ⟨nullSeg w, rfl, rfl, .inl ⟨hnull, rfl⟩⟩
  · split at h
    · cases h
    · next c hc =>
      split at h <;> cases h
      exact ⟨descSeg w c, rfl, rfl, .inr ⟨c, hc, rfl⟩⟩

theorem loadTaskSeg_ok {s t : State} {r : SReg} {w : Word} (h : loadTaskSeg s r w = .ok t) :
    ∃ g, t = s.setSeg r g ∧ TaskSeg s w g := by
  unfold loadTaskSeg at h
  split at h
  · next hv =>
    cases h
    exact ⟨seg8086 w, rfl, rfl, fun _ => rfl, fun hv' => by cases hv.symm.trans hv'⟩
  · next hv =>
    obtain ⟨g, rfl, hsel, hg⟩ := loadSegProtected_ok h
    exact ⟨g, rfl, hsel, fun hv' => absurd hv' hv, fun _ => hg⟩

/-- Each register of the list, named once, is loaded with its selector, and no other changes. -/
theorem loadTaskSegs_taskSeg {s t : State} {l : List (SReg × Word)} (hd : (l.map (·.1)).Nodup)
    (h : loadTaskSegs s l = .ok t) :
    (∀ p ∈ l, TaskSeg s p.2 (t.seg p.1)) ∧ ∀ r, r ∉ l.map (·.1) → t.seg r = s.seg r := by
  induction l generalizing s with
  | nil => cases h; exact ⟨by simp, fun _ _ => rfl⟩
  | cons p l ih =>
    obtain ⟨r, w⟩ := p
    simp only [List.map_cons, List.nodup_cons] at hd
    obtain ⟨hr, hd⟩ := hd
    obtain ⟨u, hu, h⟩ := bind_eq_ok.1 h
    obtain ⟨g, rfl, hg⟩ := loadTaskSeg_ok hu
    obtain ⟨hl, hother⟩ := ih hd h
    constructor
    · rw [List.forall_mem_cons]
      refine ⟨?_, fun q hq => ⟨(hl q hq).sel, (hl q hq).v86, (hl q hq).prot⟩⟩
      rw [hother r hr, setSeg_seg_same]
      exact hg
    · intro q hq
      simp only [List.map_cons, List.mem_cons, not_or] at hq
      rw [hother q hq.2, setSeg_seg_other _ _ hq.1]

/-- A selector for each segment register. -/
structure Selectors where
  es : Word
  cs : Word
  ss : Word
  ds : Word
  fs : Word
  gs : Word

/-- The selector for a segment register. -/
def Selectors.get (w : Selectors) : SReg → Word
  | .es => w.es | .cs => w.cs | .ss => w.ss | .ds => w.ds | .fs => w.fs | .gs => w.gs

/-- The selectors in the order in which a task switch loads them (R208). -/
def Selectors.inOrder (w : Selectors) : List (SReg × Word) :=
  [(.es, w.es), (.cs, w.cs), (.ss, w.ss), (.ds, w.ds), (.fs, w.fs), (.gs, w.gs)]

theorem Selectors.mem_inOrder (w : Selectors) (r : SReg) : (r, w.get r) ∈ w.inOrder := by
  cases r <;> simp [inOrder, get]

/-- All six segment registers are loaded with their selectors. -/
theorem loadTaskSegs_inOrder {s t : State} {w : Selectors} (h : loadTaskSegs s w.inOrder = .ok t) (r : SReg) :
    TaskSeg s (w.get r) (t.seg r) := by
  have hd : (w.inOrder.map (·.1)).Nodup := by
    show [SReg.es, .cs, .ss, .ds, .fs, .gs].Nodup
    decide
  exact (loadTaskSegs_taskSeg hd h).1 _ (w.mem_inOrder r)

/-! Fields of the incoming TSS. -/

/-- A field of a TSS as memory holds it, where the TSS does not wrap (R26). -/
def tssImage (m : Memory) (base : Dword) (k n : Nat) : Dword := m.readAll (tssBytes base k n)

theorem tssField_off {s : State} {d : TssDesc} {k n : Nat} (hp : s.pg = false) (h : d.base.toNat + k + n ≤ 2 ^ 32) :
    tssField s d k n = .ok (tssImage s.mem d.base k n) := by
  rw [tssImage, ← consecutive_eq_tssBytes h]
  exact linRead_eq_ok.2 ⟨_, physAddrs_off .read .supervisor _ n hp, rfl⟩

/-- A field of two bytes is a word. -/
theorem tssImage_word (m : Memory) (base : Dword) (k : Nat) :
    ((tssImage m base k 2).setWidth 16).setWidth 32 = tssImage m base k 2 := by
  have hlow := (m.read (base.toNat + k + 0)).isLt
  have hhigh := (m.read (base.toNat + k + 1)).isLt
  have hval : (tssImage m base k 2).toNat = _ := readAll_pair_toNat m (base.toNat + k + 0) (base.toNat + k + 1)
  apply BitVec.eq_of_toNat_eq
  rw [BitVec.toNat_setWidth_of_le (by decide), BitVec.toNat_setWidth, hval]
  omega

/-- The low half of a register whose upper half is free (log 44). -/
theorem append_setWidth_low (x y : Word) : (x ++ y).setWidth 16 = y := by
  apply BitVec.eq_of_toNat_eq
  rw [BitVec.toNat_setWidth, append_toNat]
  omega

/-- The registers of a task as its 32-bit TSS holds them, the segment registers apart (R26). -/
structure RegsFrom32 (t : State) (m : Memory) (base : Dword) : Prop where
  cr3 : t.ctrl.cr3 = tssImage m base 0x1C 4
  eip : t.eip = tssImage m base 0x20 4
  eflags : t.eflags = Eflags.ofWord (tssImage m base 0x24 4)
  regs : t.regs =
    { eax := tssImage m base 0x28 4, ecx := tssImage m base 0x2C 4, edx := tssImage m base 0x30 4
      ebx := tssImage m base 0x34 4, esp := tssImage m base 0x38 4, ebp := tssImage m base 0x3C 4
      esi := tssImage m base 0x40 4, edi := tssImage m base 0x44 4 }
  ldtr : t.ldtr.setWidth 32 = tssImage m base 0x60 2

theorem loadTaskRegs32_image {s t : State} {d : TssDesc} (hp : s.pg = false) (hb : d.base.toNat + 0x68 ≤ 2 ^ 32)
    (h : loadTaskRegs32 s d = .ok t) : RegsFrom32 t s.mem d.base := by
  simp (disch := omega) only [loadTaskRegs32, tssField_off hp, bind, Except.bind] at h
  split at h <;> cases h
  exact ⟨rfl, rfl, rfl, rfl, tssImage_word ..⟩

/-- The registers of a task as its 80286 TSS holds them, the segment registers apart (log 44). -/
structure RegsFrom16 (t : State) (m : Memory) (base : Dword) : Prop where
  eip : t.eip = tssImage m base 0x0E 2
  eflags : t.eflags = Eflags.ofWord (tssImage m base 0x10 2)
  regs : ∀ f ∈ [(0x12, Reg.eax), (0x14, .ecx), (0x16, .edx), (0x18, .ebx), (0x1A, .esp), (0x1C, .ebp), (0x1E, .esi),
    (0x20, .edi)], (t.reg16 f.2).setWidth 32 = tssImage m base f.1 2
  ldtr : t.ldtr.setWidth 32 = tssImage m base 0x2A 2

theorem loadTaskRegs16_image {s t : State} {d : TssDesc} (hp : s.pg = false) (hb : d.base.toNat + 0x2C ≤ 2 ^ 32)
    (h : loadTaskRegs16 s d = .ok t) : RegsFrom16 t s.mem d.base := by
  simp (disch := omega) only [loadTaskRegs16, tssField_off hp, bind, Except.bind] at h
  cases h
  refine ⟨rfl, rfl, ?_, tssImage_word ..⟩
  simp [State.reg16, Regs.get, append_setWidth_low, tssImage_word]

/-- The selectors that a TSS gives, each read from its place. -/
def SelectorsAt (s : State) (d : TssDesc) (w : Selectors) (places : List (Nat × SReg)) : Prop :=
  ∀ f ∈ places, ∃ v, tssField s d f.1 2 = .ok v ∧ w.get f.2 = v.setWidth 16

/-- The places of the selectors in a 32-bit TSS (R26). -/
def places32 : List (Nat × SReg) := [(0x48, .es), (0x4C, .cs), (0x50, .ss), (0x54, .ds), (0x58, .fs), (0x5C, .gs)]

/-- The places of the selectors in an 80286 TSS (log 44). -/
def places16 : List (Nat × SReg) := [(0x22, .es), (0x24, .cs), (0x26, .ss), (0x28, .ds)]

theorem places32_bounds : ∀ f ∈ places32, f.1 + 2 ≤ 0x68 := by decide

theorem places16_bounds : ∀ f ∈ places16, f.1 + 2 ≤ 0x2C := by decide

theorem taskSelectors32_ok {s : State} {d : TssDesc} {l : List (SReg × Word)} (h : taskSelectors32 s d = .ok l) :
    ∃ w : Selectors, l = w.inOrder ∧ SelectorsAt s d w places32 := by
  simp only [taskSelectors32, bind_eq_ok] at h
  obtain ⟨es, hes, cs, hcs, ss, hss, ds, hds, fs, hfs, gs, hgs, h⟩ := h
  cases h
  refine ⟨⟨es.setWidth 16, cs.setWidth 16, ss.setWidth 16, ds.setWidth 16, fs.setWidth 16, gs.setWidth 16⟩, rfl, ?_⟩
  simp [SelectorsAt, places32, Selectors.get, hes, hcs, hss, hds, hfs, hgs]

theorem taskSelectors16_ok {s : State} {d : TssDesc} {l : List (SReg × Word)} (h : taskSelectors16 s d = .ok l) :
    ∃ w : Selectors, l = w.inOrder ∧ SelectorsAt s d w places16 ∧ w.fs = 0 ∧ w.gs = 0 := by
  simp only [taskSelectors16, bind_eq_ok] at h
  obtain ⟨es, hes, cs, hcs, ss, hss, ds, hds, h⟩ := h
  cases h
  refine ⟨⟨es.setWidth 16, cs.setWidth 16, ss.setWidth 16, ds.setWidth 16, 0, 0⟩, rfl, ?_, rfl, rfl⟩
  simp [SelectorsAt, places16, Selectors.get, hes, hcs, hss, hds]

theorem taskSelectors_ok {s : State} {d : TssDesc} {l : List (SReg × Word)} (h : taskSelectors s d = .ok l) :
    ∃ w : Selectors, l = w.inOrder ∧ (d.is286 = false → SelectorsAt s d w places32) ∧
      (d.is286 = true → SelectorsAt s d w places16 ∧ w.fs = 0 ∧ w.gs = 0) := by
  unfold taskSelectors at h
  split at h
  · next hd =>
    obtain ⟨w, hl, hw⟩ := taskSelectors16_ok h
    exact ⟨w, hl, fun hd' => by simp [hd] at hd', fun _ => hw⟩
  · next hd =>
    obtain ⟨w, hl, hw⟩ := taskSelectors32_ok h
    exact ⟨w, hl, fun _ => hw, fun hd' => absurd hd' hd⟩

theorem SelectorsAt.image {s : State} {d : TssDesc} {w : Selectors} {places : List (Nat × SReg)}
    (h : SelectorsAt s d w places) (hp : s.pg = false) (hb : ∀ f ∈ places, d.base.toNat + f.1 + 2 ≤ 2 ^ 32) :
    ∀ f ∈ places, (w.get f.2).setWidth 32 = tssImage s.mem d.base f.1 2 := by
  intro f hf
  obtain ⟨v, hv, hw⟩ := h f hf
  cases (tssField_off hp (hb f hf)).symm.trans hv
  rw [hw, tssImage_word]

/-! EIP, CPL and VM of the incoming task. -/

theorem loadTaskRegs32_ok {s t : State} {d : TssDesc} (h : loadTaskRegs32 s d = .ok t) :
    (t.vm = true → t.eip.toNat ≤ 0xFFFF) ∧
      (t.vm = false → ∃ cs, tssField s d 0x4C 2 = .ok cs ∧ t.cpl = cs.extractLsb' 0 2) := by
  simp only [loadTaskRegs32, bind_eq_ok] at h
  obtain ⟨cr3, -, eip, -, fl, -, eax, -, ecx, -, edx, -, ebx, -, esp, -, ebp, -, esi, -, edi, -, cs, hcs, ldt, -, h⟩ := h
  split at h
  · cases h
  · next hentry =>
    cases h
    simp only [Bool.and_eq_true, decide_eq_true_eq, not_and, Nat.not_lt] at hentry
    refine ⟨hentry, fun hv => ⟨cs, hcs, if_neg ?_⟩⟩
    rw [show (Eflags.ofWord fl).vm = false from hv]
    exact Bool.false_ne_true

theorem loadTaskRegs16_ok {s t : State} {d : TssDesc} (h : loadTaskRegs16 s d = .ok t) :
    t.ctrl = s.ctrl ∧ ∃ cs, tssField s d 0x24 2 = .ok cs ∧ t.cpl = cs.extractLsb' 0 2 := by
  simp only [loadTaskRegs16, bind_eq_ok] at h
  obtain ⟨ip, -, fl, -, ax, -, cx, -, dx, -, bx, -, sp, -, bp, -, si, -, di, -, cs, hcs, ldt, -, h⟩ := h
  cases h
  exact ⟨rfl, cs, hcs, rfl⟩

/-- CPL is the RPL of the selector that CS is then loaded with (log 22). -/
theorem SelectorsAt.cpl {s : State} {d : TssDesc} {w : Selectors} {places : List (Nat × SReg)} {k : Nat} {cs : Dword}
    (h : SelectorsAt s d w places) (hk : (k, SReg.cs) ∈ places) (hcs : tssField s d k 2 = .ok cs) :
    cs.extractLsb' 0 2 = (w.get .cs).extractLsb' 0 2 := by
  obtain ⟨v, hv, hw⟩ := h _ hk
  cases hcs.symm.trans hv
  rw [hw]
  apply BitVec.eq_of_toNat_eq
  rw [extract_toNat, extract_toNat, BitVec.toNat_setWidth]
  omega

/-! The steps of a task switch. -/

/-- The state in which the incoming task goes on: its registers `v`, TR, and its segment registers. -/
def switchedTo (v : State) (sel : Word) (d : TssDesc) (g : Segs) : State :=
  { v with
    tr := { sel := sel, base := d.base, limit := d.limit, is286 := d.is286 }
    segs := g, intShadow := false, ssShadow := false, halted := false, written := [], ilen := 0, pfx := Pfx.none
    iterating := none }

/-- A task switch from `s`: `saved` is the state with the outgoing task saved, `v` has the incoming task's registers, and `w` and
`g` are its selectors and its segment registers (R207, R208). -/
structure Switches (s : State) (sel : Word) (eip : Dword) (d : TssDesc) (saved v : State) (w : Selectors) (g : Segs) : Prop where
  desc : s.tssDesc sel = some d
  saves : writeTssFields s (savedFields s eip) = .ok saved
  loads : loadTaskImage saved d = .ok v
  selectors32 : d.is286 = false → SelectorsAt saved d w places32
  selectors16 : d.is286 = true → SelectorsAt saved d w places16 ∧ w.fs = 0 ∧ w.gs = 0
  segs : ∀ r, TaskSeg v (w.get r) (g.get r)

theorem taskSwitch_switches {s t : State} {sel : Word} {eip : Dword} (h : taskSwitch s sel eip = .ok t) :
    ∃ d saved v w g, Switches s sel eip d saved v w g ∧ t = switchedTo v sel d g := by
  unfold taskSwitch at h
  split at h
  · cases h
  · next d hd =>
    split at h
    · cases h
    · rw [insideSwitch_eq_ok] at h
      simp only [bind_eq_ok] at h
      obtain ⟨saved, hsaved, l, hl, t1, ht1, t2, ht2, h⟩ := h
      obtain ⟨w, rfl, h32, h16⟩ := taskSelectors_ok hl
      obtain ⟨v, hv, e1⟩ := bind_eq_ok.1 ht1
      have hsegs := loadTaskSegs_inOrder ht2
      obtain ⟨g, rfl⟩ := loadTaskSegs_ok ht2
      cases e1
      cases h
      exact ⟨d, saved, v, w, g, ⟨hd, hsaved, hv, h32, h16, fun r => ⟨(hsegs r).sel, (hsegs r).v86, (hsegs r).prot⟩⟩, rfl⟩

/-- The registers that a task switch does not load (log 22), and the tables. -/
theorem taskSwitch_keeps_system {s t : State} {sel : Word} {eip : Dword} (h : taskSwitch s sel eip = .ok t) :
    t.gdtr = s.gdtr ∧ t.idtr = s.idtr ∧ t.ctrl.cr0 = s.ctrl.cr0 ∧ t.dbg = s.dbg ∧ t.tst = s.tst ∧
      t.descriptors = s.descriptors := by
  obtain ⟨⟨regs, segs, eip', fl, cpl, cr3, ldtr, tr, draws, mem, rfl⟩, -, -⟩ := taskSwitch_ok h
  exact ⟨rfl, rfl, rfl, rfl, rfl, rfl⟩

theorem segDesc_congr {s t : State} (h : t.descriptors = s.descriptors) (w : Word) : t.segDesc w = s.segDesc w := by
  simp only [State.segDesc, State.desc, h]

theorem loadTaskImage_mem {s t : State} {d : TssDesc} (h : loadTaskImage s d = .ok t) : t.mem = s.mem := by
  have hregs : loadTaskRegs s 0 d = .ok _ := ok_bind _ h
  obtain ⟨⟨regs, eip, fl, cpl, cr3, ldtr, tr, draws, e⟩, -⟩ := loadTaskRegs_ok hregs
  have hmem := congrArg State.mem e
  exact hmem

theorem loadTaskImage_286 {s t : State} {d : TssDesc} (hd : d.is286 = true) (h : loadTaskImage s d = .ok t) :
    t.vm = false := by
  have hregs : loadTaskRegs s 0 d = .ok _ := ok_bind _ h
  have hvm := loadTaskRegs_286 hd hregs
  exact hvm

section Switch

variable {s saved v : State} {sel : Word} {eip : Dword} {d : TssDesc} {w : Selectors} {g : Segs}
  (h : Switches s sel eip d saved v w g)
include h

theorem Switches.sel_eq (r : SReg) : (switchedTo v sel d g).sel r = w.get r := (h.segs r).sel

/-- VM 1 comes from a 32-bit TSS, whose EIP was checked (R252). -/
theorem Switches.eip_le (hv : v.vm = true) : v.eip.toNat ≤ 0xFFFF := by
  have hl := h.loads
  unfold loadTaskImage at hl
  split at hl
  · next hd => cases hv.symm.trans (loadTaskImage_286 hd h.loads)
  · exact (loadTaskRegs32_ok hl).1 hv

theorem Switches.cpl_eq (hv : v.vm = false) : v.cpl = (w.get .cs).extractLsb' 0 2 := by
  have hl := h.loads
  unfold loadTaskImage at hl
  split at hl
  · next hd =>
    obtain ⟨-, cs, hcs, hcpl⟩ := loadTaskRegs16_ok hl
    exact hcpl.trans ((h.selectors16 hd).1.cpl (by simp [places16]) hcs)
  · next hd =>
    obtain ⟨cs, hcs, hcpl⟩ := (loadTaskRegs32_ok hl).2 hv
    exact hcpl.trans ((h.selectors32 (by simpa using hd)).cpl (by simp [places32]) hcs)

theorem Switches.saved_pg : saved.pg = s.pg := by
  obtain ⟨⟨m, x, rfl⟩, -⟩ := writeTssFields_ok h.saves
  rfl

theorem Switches.mem_eq : v.mem = saved.mem := loadTaskImage_mem h.loads

theorem Switches.vm_286 (hd : d.is286 = true) : v.vm = false := loadTaskImage_286 hd h.loads

/-- From a 32-bit TSS, which memory still holds after the switch. -/
theorem Switches.image32 (hd : d.is286 = false) (hp : s.pg = false) (hb : d.base.toNat + 0x68 ≤ 2 ^ 32) :
    RegsFrom32 v v.mem d.base ∧ ∀ f ∈ places32, (w.get f.2).setWidth 32 = tssImage v.mem d.base f.1 2 := by
  have hpg := h.saved_pg.trans hp
  have hl : loadTaskRegs32 saved d = .ok v := by simpa [loadTaskImage, hd] using h.loads
  rw [h.mem_eq]
  refine ⟨loadTaskRegs32_image hpg hb hl, (h.selectors32 hd).image hpg fun f hf => ?_⟩
  have := places32_bounds f hf
  omega

/-- From an 80286 TSS; CR3 is not among its fields (log 44). -/
theorem Switches.image16 (hd : d.is286 = true) (hp : s.pg = false) (hb : d.base.toNat + 0x2C ≤ 2 ^ 32) :
    v.ctrl = s.ctrl ∧ RegsFrom16 v v.mem d.base ∧
      ∀ f ∈ places16, (w.get f.2).setWidth 32 = tssImage v.mem d.base f.1 2 := by
  have hpg := h.saved_pg.trans hp
  have hl : loadTaskRegs16 saved d = .ok v := by simpa [loadTaskImage, hd] using h.loads
  have hctrl : saved.ctrl = s.ctrl := by
    obtain ⟨⟨m, x, rfl⟩, -⟩ := writeTssFields_ok h.saves
    rfl
  rw [h.mem_eq]
  refine ⟨(loadTaskRegs16_ok hl).1.trans hctrl, loadTaskRegs16_image hpg hb hl, (h.selectors16 hd).1.image hpg fun f hf => ?_⟩
  have := places16_bounds f hf
  omega

end Switch

/-! What the outgoing task saves. -/

/-- With paging off the saves store their fields above the base in TR. -/
theorem writeTssFields_stores {s t : State} {fs : List StoredField} (hp : s.pg = false)
    (hb : ∀ f ∈ fs, s.tr.base.toNat + f.1 + f.2.1 ≤ 2 ^ 32) (h : writeTssFields s fs = .ok t) :
    t.mem = storeFields s.mem s.tr.base fs := by
  induction fs generalizing s with
  | nil => cases h; rfl
  | cons f fs ih =>
    obtain ⟨k, n, v⟩ := f
    rw [List.forall_mem_cons] at hb
    rw [writeTssFields, ok_bind _ (linWrite_field .supervisor hp hb.1)] at h
    exact ih (s := s.storeAt (tssBytes s.tr.base k n) v) hp hb.2 h

theorem savedFields_bounds (s : State) (eip : Dword) : ∀ f ∈ savedFields s eip, f.1 + f.2.1 ≤ 0x68 := by
  unfold savedFields
  split <;> simp [savedFields16, savedFields32]

theorem savedFields_apart (s : State) (eip : Dword) : (savedFields s eip).Pairwise Apart := by
  unfold savedFields
  split <;> simp [savedFields16, savedFields32, Apart]

theorem lowBytes_toNat (n : Nat) (v : Dword) : (lowBytes n v).toNat = v.toNat % 2 ^ (8 * n) := by
  have hle := Nat.mod_le v.toNat (2 ^ (8 * n))
  rw [lowBytes_eq, BitVec.toNat_ofNat, Nat.mod_eq_of_lt (by omega)]

/-- The outgoing task stands in its own TSS, and no other byte of memory changed. -/
theorem Switches.outgoing {s saved v : State} {sel : Word} {eip : Dword} {d : TssDesc} {w : Selectors} {g : Segs}
    (h : Switches s sel eip d saved v w g) (hp : s.pg = false) (hm : memoryOk s = true)
    (hb : s.tr.base.toNat + 0x68 ≤ 2 ^ 32) :
    (∀ f ∈ savedFields s eip,
      (v.mem.readAll (tssBytes s.tr.base f.1 f.2.1)).toNat = f.2.2.toNat % 2 ^ (8 * f.2.1)) ∧
      ∀ a, (∀ f ∈ savedFields s eip, a ∉ tssBytes s.tr.base f.1 f.2.1) → v.mem.read a = s.mem.read a := by
  have hbounds : ∀ f ∈ savedFields s eip, s.tr.base.toNat + f.1 + f.2.1 ≤ 2 ^ 32 := by
    intro f hf
    have := savedFields_bounds s eip f hf
    omega
  rw [h.mem_eq, writeTssFields_stores hp hbounds h.saves]
  refine ⟨fun f hf => ?_, fun a ha => read_storeFields_other ha⟩
  rw [← lowBytes_toNat]
  exact congrArg BitVec.toNat (readAll_storeFields (wf_of_memoryOk hm) (savedFields_apart s eip) f hf)

/-- Settles O56: what is saved and loaded is read off the steps of the switch. -/
theorem taskSwitchLoadsSegmentsByNewVm : Obligations.TaskSwitchLoadsSegmentsByNewVm := by
  intro s t sel eip h
  obtain ⟨hgdtr, hidtr, hcr0, hdbg, htst, hdescs⟩ := taskSwitch_keeps_system h
  obtain ⟨-, -, hv86⟩ := taskSwitch_ok h
  obtain ⟨d, saved, v, w, g, hsw, rfl⟩ := taskSwitch_switches h
  refine ⟨fun hv => ?_, fun hv => ⟨?_, fun r => ?_⟩, hgdtr, hidtr, hcr0, hdbg, htst,
    ⟨d, hsw.desc, rfl, fun hd => hsw.vm_286 hd, fun hd hp hb => ?_, fun hd hp hb => ?_⟩, ?_⟩
  · obtain ⟨hcpl, hsegs⟩ := hv86 hv
    exact ⟨hcpl, hsegs, hsw.eip_le hv⟩
  · rw [hsw.sel_eq]
    exact hsw.cpl_eq hv
  · rw [hsw.sel_eq, ← segDesc_congr hdescs]
    exact (hsw.segs r).prot hv
  · obtain ⟨hregs, hsels⟩ := hsw.image32 hd hp hb
    refine ⟨hregs.cr3, hregs.eip, hregs.eflags, hregs.regs, fun f hf => ?_, hregs.ldtr⟩
    rw [hsw.sel_eq]
    exact hsels f hf
  · obtain ⟨hctrl, hregs, hsels⟩ := hsw.image16 hd hp hb
    obtain ⟨-, hfs, hgs⟩ := hsw.selectors16 hd
    refine ⟨congrArg CtrlRegs.cr3 hctrl, hregs.eip, hregs.eflags, hregs.regs, fun f hf => ?_, (hsw.sel_eq .fs).trans hfs,
      (hsw.sel_eq .gs).trans hgs, hregs.ldtr⟩
    rw [hsw.sel_eq]
    exact hsels f hf
  · rintro fields hfields hp hm hb
    obtain rfl : fields = savedFields s eip := hfields
    exact hsw.outgoing hp hm hb

end Sys2Proof.Proofs
end
